-- ==== Sys2Proof/Word.lean ====
section
/-! DEFINITION. The widths of the machine: what the spec treats as bits (spec/00_scope.md R10, R14). -/

namespace Sys2Proof

/-- 8 bits: a memory cell, a general register, a timer, an immediate `kk` (R10, R14). -/
abbrev Byte := BitVec 8

/-- 16 bits: `I`, `PC`, a stack entry, an opcode (R10, R100). -/
abbrev Word := BitVec 16

/-- 4 bits: a register number, the field `n`, a key (R101, R320). -/
abbrev Nibble := BitVec 4

/-- 12 bits: the field `nnn` (R101). -/
abbrev Addr := BitVec 12

end Sys2Proof
end

