-- ==== Sys2Proof/Config.lean ====
section
/-! DEFINITION. What a session fixes at construction (spec/00_scope.md R10 to R12), and the answers of
collaborators that nothing constrains (spec/92_eei_decisions.md D26). -/

namespace Sys2Proof

/-- `MEM_SIZE` (R10). -/
abbrev memSize : Nat := 4096
/-- `STACK_DEPTH` (R10). -/
abbrev stackDepth : Nat := 16
/-- `SCREEN_W` (R10). -/
abbrev screenW : Nat := 64
/-- `SCREEN_H` (R10). -/
abbrev screenH : Nat := 32
/-- `ENTRY`, the reset value of `PC` (R10). -/
abbrev entryPoint : Nat := 0x200
/-- `FONT_BASE` (R10). -/
abbrev fontBase : Nat := 0
/-- `FONT_SIZE`, bytes of the font table (R10). -/
abbrev fontSize : Nat := 80
/-- `FONT_STRIDE`, bytes of one glyph (R10). -/
abbrev fontStride : Nat := 5

/-- The three dialects of the one instruction set (R2). -/
inductive Dialect where
  | classic | superChip | xoChip
  deriving DecidableEq, Repr

/-- `VF_ORDER`: which write wins when the result register is VF; open (R11, R190, D7). -/
inductive VfOrder where
  | flagLast | resultLast
  deriving DecidableEq, Repr

/-- `FONT_INDEX`: what `LD F, Vx` does with a value above 15; open (R11, R232, D15). -/
inductive FontIndex where
  | unmasked | lowNibble
  deriving DecidableEq, Repr

/-- `FONT`: the table of 16 glyphs the host loads at address 0, exactly 80 bytes (R11, R345). -/
abbrev Font := Vector Byte fontSize

/-- The session configuration (R11, R38). Constant for a session: no step writes it.
`Q.vf_reset` and `Q.index_increment` follow the dialect (R12), so they are computed, not stored. -/
structure SessionConfig where
  /-- `DIALECT`. -/
  dialect      : Dialect
  /-- `Q.shift_uses_vy`, a free parameter (R12, D21). -/
  shiftUsesVy  : Bool
  /-- `Q.jump_uses_vx`, a free parameter (R12, D21). -/
  jumpUsesVx   : Bool
  /-- `VF_ORDER`. -/
  vfOrder      : VfOrder
  /-- `FONT_INDEX`. -/
  fontIndex    : FontIndex
  /-- `STRICT_DECODE` (R109, D8). -/
  strictDecode : Bool
  /-- `INSTR_TIME`, a positive number of time units (R140). -/
  instrTime    : Nat
  /-- `TIMER_PERIOD`, a positive number of time units (R140). -/
  timerPeriod  : Nat
  /-- `FONT`; the core never reads it, the boot loads it (R343, D28). -/
  font         : Font
  deriving DecidableEq, Repr

/-- `INSTR_TIME` and `TIMER_PERIOD` are positive (R11, R140: "Any pair of positive integers is admitted"). -/
abbrev SessionConfig.Positive (c : SessionConfig) : Prop := 0 < c.instrTime ∧ 0 < c.timerPeriod

/-- FREE VALUE: what the random source answers at the n-th draw nothing in State supplies (R203, R322, D26).
Nothing constrains it (log entry 9). -/
opaque Config.freeRandom : Nat → Byte

/-- FREE VALUE: what the keyboard answers for a key at the n-th draw nothing in State supplies (R320, D26).
Nothing constrains it (log entry 9). -/
opaque Config.freePressed : Nat → Nibble → Bool

end Sys2Proof
end

