-- ==== Sys2Proof/Syntax.lean ====
section
/-! DEFINITION. The instruction set: one constructor per row of spec/opcode_table.json (spec/30_encoding.md R107).
Four rows have bits that decoding ignores unless `STRICT_DECODE` (R109): they are kept as the last argument, so that
an instruction and its opcode determine each other (log entry 7). -/

namespace Sys2Proof

/-- The 34 instructions, in the table's order (R107). -/
inductive Instr where
  /-- `CLS`; the argument is the ignored bits 11..8 (R280). -/
  | cls (ignored : Nibble)
  /-- `RET`; the argument is the ignored bits 11..8 (R162). -/
  | ret (ignored : Nibble)
  /-- `JP addr` (R163). -/
  | jp (nnn : Addr)
  /-- `CALL addr` (R160). -/
  | call (nnn : Addr)
  /-- `SE Vx, byte` (R165). -/
  | seImm (x : Nibble) (kk : Byte)
  /-- `SNE Vx, byte` (R166). -/
  | sneImm (x : Nibble) (kk : Byte)
  /-- `SE Vx, Vy`; the last argument is the ignored bits 3..0 (R167). -/
  | seReg (x y ignored : Nibble)
  /-- `LD Vx, byte` (R192). -/
  | ldImm (x : Nibble) (kk : Byte)
  /-- `ADD Vx, byte` (R193). -/
  | addImm (x : Nibble) (kk : Byte)
  /-- `LD Vx, Vy` (R194). -/
  | ldReg (x y : Nibble)
  /-- `OR Vx, Vy` (R195). -/
  | or (x y : Nibble)
  /-- `AND Vx, Vy` (R196). -/
  | and (x y : Nibble)
  /-- `XOR Vx, Vy` (R197). -/
  | xor (x y : Nibble)
  /-- `ADD Vx, Vy` (R198). -/
  | addReg (x y : Nibble)
  /-- `SUB Vx, Vy` (R199). -/
  | sub (x y : Nibble)
  /-- `SHR Vx {, Vy}` (R200). -/
  | shr (x y : Nibble)
  /-- `SUBN Vx, Vy` (R201). -/
  | subn (x y : Nibble)
  /-- `SHL Vx {, Vy}` (R202). -/
  | shl (x y : Nibble)
  /-- `SNE Vx, Vy`; the last argument is the ignored bits 3..0 (R168). -/
  | sneReg (x y ignored : Nibble)
  /-- `LD I, addr` (R230). -/
  | ldI (nnn : Addr)
  /-- `JP V0, addr`; `x` is `nnn[11:8]` (R164). -/
  | jpV0 (nnn : Addr)
  /-- `RND Vx, byte` (R203). -/
  | rnd (x : Nibble) (kk : Byte)
  /-- `DRW Vx, Vy, nibble` (R281). -/
  | drw (x y n : Nibble)
  /-- `SKP Vx` (R169). -/
  | skp (x : Nibble)
  /-- `SKNP Vx` (R170). -/
  | sknp (x : Nibble)
  /-- `LD Vx, DT` (R260). -/
  | ldVxDT (x : Nibble)
  /-- `LD Vx, K` (R263). -/
  | ldVxK (x : Nibble)
  /-- `LD DT, Vx` (R261). -/
  | ldDT (x : Nibble)
  /-- `LD ST, Vx` (R262). -/
  | ldST (x : Nibble)
  /-- `ADD I, Vx` (R231). -/
  | addI (x : Nibble)
  /-- `LD F, Vx` (R232). -/
  | ldF (x : Nibble)
  /-- `LD B, Vx` (R233). -/
  | ldB (x : Nibble)
  /-- `LD [I], Vx` (R234). -/
  | ldMemStore (x : Nibble)
  /-- `LD Vx, [I]` (R235). -/
  | ldMemLoad (x : Nibble)
  deriving DecidableEq, Repr

/-- The row's mnemonic in spec/opcode_table.json, the `name` of a fault report (R304). -/
def Instr.mnemonic : Instr → String
  | .cls _ => "CLS"
  | .ret _ => "RET"
  | .jp _ => "JP"
  | .call _ => "CALL"
  | .seImm _ _ => "SE_imm"
  | .sneImm _ _ => "SNE_imm"
  | .seReg _ _ _ => "SE_reg"
  | .ldImm _ _ => "LD_imm"
  | .addImm _ _ => "ADD_imm"
  | .ldReg _ _ => "LD_reg"
  | .or _ _ => "OR"
  | .and _ _ => "AND"
  | .xor _ _ => "XOR"
  | .addReg _ _ => "ADD_reg"
  | .sub _ _ => "SUB"
  | .shr _ _ => "SHR"
  | .subn _ _ => "SUBN"
  | .shl _ _ => "SHL"
  | .sneReg _ _ _ => "SNE_reg"
  | .ldI _ => "LD_I"
  | .jpV0 _ => "JP_V0"
  | .rnd _ _ => "RND"
  | .drw _ _ _ => "DRW"
  | .skp _ => "SKP"
  | .sknp _ => "SKNP"
  | .ldVxDT _ => "LD_Vx_DT"
  | .ldVxK _ => "LD_Vx_K"
  | .ldDT _ => "LD_DT"
  | .ldST _ => "LD_ST"
  | .addI _ => "ADD_I"
  | .ldF _ => "LD_F"
  | .ldB _ => "LD_B"
  | .ldMemStore _ => "LD_mem_store"
  | .ldMemLoad _ => "LD_mem_load"

end Sys2Proof
end

