-- ==== Sys2Proof/WellFormed.lean ====
section
/-! DEFINITION. Which instructions a session's decoder can produce (spec/30_encoding.md R109). The field widths are in
the types; what is left to check are the ignored bits, which must be zero when `STRICT_DECODE` is true. -/

namespace Sys2Proof

/-- The bits of an instruction that decoding looks at only when `STRICT_DECODE` is true (R109). -/
def Instr.ignoredBits : Instr → Nibble
  | .cls z => z
  | .ret z => z
  | .seReg _ _ z => z
  | .sneReg _ _ z => z
  | .jp _ => 0
  | .call _ => 0
  | .seImm _ _ => 0
  | .sneImm _ _ => 0
  | .ldImm _ _ => 0
  | .addImm _ _ => 0
  | .ldReg _ _ => 0
  | .or _ _ => 0
  | .and _ _ => 0
  | .xor _ _ => 0
  | .addReg _ _ => 0
  | .sub _ _ => 0
  | .shr _ _ => 0
  | .subn _ _ => 0
  | .shl _ _ => 0
  | .ldI _ => 0
  | .jpV0 _ => 0
  | .rnd _ _ => 0
  | .drw _ _ _ => 0
  | .skp _ => 0
  | .sknp _ => 0
  | .ldVxDT _ => 0
  | .ldVxK _ => 0
  | .ldDT _ => 0
  | .ldST _ => 0
  | .addI _ => 0
  | .ldF _ => 0
  | .ldB _ => 0
  | .ldMemStore _ => 0
  | .ldMemLoad _ => 0

/-- An instruction is well formed for a setting of `STRICT_DECODE` when that setting admits its ignored bits:
any value when it is false, zero when it is true (R109). -/
abbrev Instr.WellFormed (strict : Bool) (i : Instr) : Prop := strict = true → i.ignoredBits = 0

end Sys2Proof
end

