-- ==== Sys2Proof/Decode.lean ====
section
/-! DEFINITION. The instruction_decoder (spec/30_encoding.md R100 to R118): fields, decoding on dispatch keys, the
machine-readable table, and the encoder. -/

namespace Sys2Proof

/-! ## Fields (R101) -/

/-- `op`, bits 15..12: the primary dispatch key. -/
def fieldOp (w : Word) : Nibble := w.extractLsb' 12 4
/-- `x`, bits 11..8. -/
def fieldX (w : Word) : Nibble := w.extractLsb' 8 4
/-- `y`, bits 7..4. -/
def fieldY (w : Word) : Nibble := w.extractLsb' 4 4
/-- `n`, bits 3..0. -/
def fieldN (w : Word) : Nibble := w.extractLsb' 0 4
/-- `kk`, bits 7..0. -/
def fieldKK (w : Word) : Byte := w.extractLsb' 0 8
/-- `nnn`, bits 11..0. -/
def fieldNNN (w : Word) : Addr := w.extractLsb' 0 12

/-- The opcode of two consecutive bytes, the lower address's byte high (spec/20_memory.md R76; D1). -/
def opcodeOf (hi lo : Byte) : Word := hi ++ lo

/-! ## Decoding (R105 to R110) -/

/-- What the decoder answers (R33): an instruction, or Unknown. -/
inductive Decoded where
  | known (i : Instr)
  | unknown
  deriving DecidableEq, Repr

/-- An instruction whose ignored bits are `z`: Unknown when `STRICT_DECODE` and `z` is not zero (R109). -/
def whenIgnorable (strict : Bool) (z : Nibble) (i : Instr) : Decoded :=
  if z = 0 then .known i else if strict then .unknown else .known i

/-- Top nibble 0, keyed by `kk` (R106, R107). -/
def decodeSystem (strict : Bool) (w : Word) : Decoded :=
  if fieldKK w = 0xE0 then whenIgnorable strict (fieldX w) (.cls (fieldX w))
  else if fieldKK w = 0xEE then whenIgnorable strict (fieldX w) (.ret (fieldX w))
  else .unknown

/-- Top nibble 8, keyed by `n` (R106, R107). -/
def decodeAlu (w : Word) : Decoded :=
  let x := fieldX w
  let y := fieldY w
  match (fieldN w).toNat with
  | 0x0 => .known (.ldReg x y)
  | 0x1 => .known (.or x y)
  | 0x2 => .known (.and x y)
  | 0x3 => .known (.xor x y)
  | 0x4 => .known (.addReg x y)
  | 0x5 => .known (.sub x y)
  | 0x6 => .known (.shr x y)
  | 0x7 => .known (.subn x y)
  | 0xE => .known (.shl x y)
  | _ => .unknown

/-- Top nibble E, keyed by `kk` (R106, R107). -/
def decodeKeys (w : Word) : Decoded :=
  if fieldKK w = 0x9E then .known (.skp (fieldX w))
  else if fieldKK w = 0xA1 then .known (.sknp (fieldX w))
  else .unknown

/-- Top nibble F, keyed by `kk` (R106, R107). -/
def decodeMisc (w : Word) : Decoded :=
  let x := fieldX w
  if fieldKK w = 0x07 then .known (.ldVxDT x)
  else if fieldKK w = 0x0A then .known (.ldVxK x)
  else if fieldKK w = 0x15 then .known (.ldDT x)
  else if fieldKK w = 0x18 then .known (.ldST x)
  else if fieldKK w = 0x1E then .known (.addI x)
  else if fieldKK w = 0x29 then .known (.ldF x)
  else if fieldKK w = 0x33 then .known (.ldB x)
  else if fieldKK w = 0x55 then .known (.ldMemStore x)
  else if fieldKK w = 0x65 then .known (.ldMemLoad x)
  else .unknown

/-- The decoder: total, pure, a function of the opcode and `STRICT_DECODE` alone (R107, R110). -/
def decode (strict : Bool) (w : Word) : Decoded :=
  match (fieldOp w).toNat with
  | 0x0 => decodeSystem strict w
  | 0x1 => .known (.jp (fieldNNN w))
  | 0x2 => .known (.call (fieldNNN w))
  | 0x3 => .known (.seImm (fieldX w) (fieldKK w))
  | 0x4 => .known (.sneImm (fieldX w) (fieldKK w))
  | 0x5 => whenIgnorable strict (fieldN w) (.seReg (fieldX w) (fieldY w) (fieldN w))
  | 0x6 => .known (.ldImm (fieldX w) (fieldKK w))
  | 0x7 => .known (.addImm (fieldX w) (fieldKK w))
  | 0x8 => decodeAlu w
  | 0x9 => whenIgnorable strict (fieldN w) (.sneReg (fieldX w) (fieldY w) (fieldN w))
  | 0xA => .known (.ldI (fieldNNN w))
  | 0xB => .known (.jpV0 (fieldNNN w))
  | 0xC => .known (.rnd (fieldX w) (fieldKK w))
  | 0xD => .known (.drw (fieldX w) (fieldY w) (fieldN w))
  | 0xE => decodeKeys w
  | _ => decodeMisc w

/-- What decoding a byte sequence answers: the instruction and the rest, or why there is none. -/
inductive DecodedBytes where
  /-- An instruction and the bytes after it. -/
  | known (i : Instr) (rest : List Byte)
  /-- Two bytes that are no instruction (R108). -/
  | unknown (opcode : Word)
  /-- Fewer than the two bytes every instruction has (R100). -/
  | tooShort
  deriving DecidableEq, Repr

/-- The decoder on any bytes: every instruction is two bytes, the high byte first (R76, R100). -/
def decodeBytes (strict : Bool) : List Byte → DecodedBytes
  | hi :: lo :: rest =>
    match decode strict (opcodeOf hi lo) with
    | .known i => .known i rest
    | .unknown => .unknown (opcodeOf hi lo)
  | _ => .tooShort

/-! ## The encoder -/

/-- The opcode of an instruction (R104, R107): the key nibbles and the operand fields, most significant first. -/
def encode : Instr → Word
  | .cls z => 0x0#4 ++ z ++ 0xE0#8
  | .ret z => 0x0#4 ++ z ++ 0xEE#8
  | .jp nnn => 0x1#4 ++ nnn
  | .call nnn => 0x2#4 ++ nnn
  | .seImm x kk => 0x3#4 ++ x ++ kk
  | .sneImm x kk => 0x4#4 ++ x ++ kk
  | .seReg x y z => 0x5#4 ++ x ++ y ++ z
  | .ldImm x kk => 0x6#4 ++ x ++ kk
  | .addImm x kk => 0x7#4 ++ x ++ kk
  | .ldReg x y => 0x8#4 ++ x ++ y ++ 0x0#4
  | .or x y => 0x8#4 ++ x ++ y ++ 0x1#4
  | .and x y => 0x8#4 ++ x ++ y ++ 0x2#4
  | .xor x y => 0x8#4 ++ x ++ y ++ 0x3#4
  | .addReg x y => 0x8#4 ++ x ++ y ++ 0x4#4
  | .sub x y => 0x8#4 ++ x ++ y ++ 0x5#4
  | .shr x y => 0x8#4 ++ x ++ y ++ 0x6#4
  | .subn x y => 0x8#4 ++ x ++ y ++ 0x7#4
  | .shl x y => 0x8#4 ++ x ++ y ++ 0xE#4
  | .sneReg x y z => 0x9#4 ++ x ++ y ++ z
  | .ldI nnn => 0xA#4 ++ nnn
  | .jpV0 nnn => 0xB#4 ++ nnn
  | .rnd x kk => 0xC#4 ++ x ++ kk
  | .drw x y n => 0xD#4 ++ x ++ y ++ n
  | .skp x => 0xE#4 ++ x ++ 0x9E#8
  | .sknp x => 0xE#4 ++ x ++ 0xA1#8
  | .ldVxDT x => 0xF#4 ++ x ++ 0x07#8
  | .ldVxK x => 0xF#4 ++ x ++ 0x0A#8
  | .ldDT x => 0xF#4 ++ x ++ 0x15#8
  | .ldST x => 0xF#4 ++ x ++ 0x18#8
  | .addI x => 0xF#4 ++ x ++ 0x1E#8
  | .ldF x => 0xF#4 ++ x ++ 0x29#8
  | .ldB x => 0xF#4 ++ x ++ 0x33#8
  | .ldMemStore x => 0xF#4 ++ x ++ 0x55#8
  | .ldMemLoad x => 0xF#4 ++ x ++ 0x65#8

/-- The two bytes of an instruction in memory order (R76, R100). -/
def encodeBytes (i : Instr) : List Byte := [(encode i).extractLsb' 8 8, (encode i).extractLsb' 0 8]

/-! ## The machine-readable table (R118) -/

/-- One row of the opcode table: an opcode selects it when `opcode & mask = pattern`, with the strict mask in place of
the mask when `STRICT_DECODE` is true. -/
structure TableRow where
  mnemonic   : String
  pattern    : Word
  mask       : Word
  strictMask : Word
  deriving DecidableEq, Repr

/-- The mask a setting of `STRICT_DECODE` uses (R118). -/
def TableRow.maskFor (r : TableRow) (strict : Bool) : Word := if strict then r.strictMask else r.mask

/-- An opcode selects a row (R118). -/
abbrev TableRow.Selects (r : TableRow) (strict : Bool) (w : Word) : Prop := w &&& r.maskFor strict = r.pattern

/-- Rows of the formats NONE and NNN and the immediates up to `ADD_imm`. -/
def opcodeTableLow : List TableRow := [
  ⟨"CLS", 0x00E0, 0xF0FF, 0xFFFF⟩,
  ⟨"RET", 0x00EE, 0xF0FF, 0xFFFF⟩,
  ⟨"JP", 0x1000, 0xF000, 0xF000⟩,
  ⟨"CALL", 0x2000, 0xF000, 0xF000⟩,
  ⟨"SE_imm", 0x3000, 0xF000, 0xF000⟩,
  ⟨"SNE_imm", 0x4000, 0xF000, 0xF000⟩,
  ⟨"SE_reg", 0x5000, 0xF000, 0xF00F⟩,
  ⟨"LD_imm", 0x6000, 0xF000, 0xF000⟩,
  ⟨"ADD_imm", 0x7000, 0xF000, 0xF000⟩]

/-- Rows of top nibble 8. -/
def opcodeTableAlu : List TableRow := [
  ⟨"LD_reg", 0x8000, 0xF00F, 0xF00F⟩,
  ⟨"OR", 0x8001, 0xF00F, 0xF00F⟩,
  ⟨"AND", 0x8002, 0xF00F, 0xF00F⟩,
  ⟨"XOR", 0x8003, 0xF00F, 0xF00F⟩,
  ⟨"ADD_reg", 0x8004, 0xF00F, 0xF00F⟩,
  ⟨"SUB", 0x8005, 0xF00F, 0xF00F⟩,
  ⟨"SHR", 0x8006, 0xF00F, 0xF00F⟩,
  ⟨"SUBN", 0x8007, 0xF00F, 0xF00F⟩,
  ⟨"SHL", 0x800E, 0xF00F, 0xF00F⟩]

/-- Rows of top nibbles 9 to E. -/
def opcodeTableHigh : List TableRow := [
  ⟨"SNE_reg", 0x9000, 0xF000, 0xF00F⟩,
  ⟨"LD_I", 0xA000, 0xF000, 0xF000⟩,
  ⟨"JP_V0", 0xB000, 0xF000, 0xF000⟩,
  ⟨"RND", 0xC000, 0xF000, 0xF000⟩,
  ⟨"DRW", 0xD000, 0xF000, 0xF000⟩,
  ⟨"SKP", 0xE09E, 0xF0FF, 0xF0FF⟩,
  ⟨"SKNP", 0xE0A1, 0xF0FF, 0xF0FF⟩]

/-- Rows of top nibble F. -/
def opcodeTableMisc : List TableRow := [
  ⟨"LD_Vx_DT", 0xF007, 0xF0FF, 0xF0FF⟩,
  ⟨"LD_Vx_K", 0xF00A, 0xF0FF, 0xF0FF⟩,
  ⟨"LD_DT", 0xF015, 0xF0FF, 0xF0FF⟩,
  ⟨"LD_ST", 0xF018, 0xF0FF, 0xF0FF⟩,
  ⟨"ADD_I", 0xF01E, 0xF0FF, 0xF0FF⟩,
  ⟨"LD_F", 0xF029, 0xF0FF, 0xF0FF⟩,
  ⟨"LD_B", 0xF033, 0xF0FF, 0xF0FF⟩,
  ⟨"LD_mem_store", 0xF055, 0xF0FF, 0xF0FF⟩,
  ⟨"LD_mem_load", 0xF065, 0xF0FF, 0xF0FF⟩]

/-- The 34 rows of spec/opcode_table.json, in its order (R118). -/
def opcodeTable : List TableRow := opcodeTableLow ++ opcodeTableAlu ++ opcodeTableHigh ++ opcodeTableMisc

/-! ## The host's question -/

/-- The instruction this decoder reads from an opcode numbered as spec/opcode_table.json numbers its bits, laid out as
memory holds it, at the spec's default `STRICT_DECODE = false` (R11, R109; log entry 5). -/
def decodeTableWord (nbits w : Nat) : Option Instr :=
  let op : Word := BitVec.ofNat 16 (w % 2 ^ nbits)
  match decodeBytes false [op.extractLsb' 8 8, op.extractLsb' 0 8] with
  | .known i _ => some i
  | .unknown _ => none
  | .tooShort => none

end Sys2Proof
end

