-- ==== Sys2Proof/Machine/Session.lean ====
section
/-! DEFINITION. The quirk record of a session (spec/00_scope.md R12), the default font (spec/70_reset_and_hazards.md R345)
and the configuration State.reset takes. -/

namespace Sys2Proof.Machine

/-- `Q.vf_reset`: follows the dialect, true for Classic only (R12). -/
def vfReset (c : SessionConfig) : Bool :=
  match c.dialect with
  | .classic => true
  | .superChip => false
  | .xoChip => false

/-- `Q.index_increment`: follows the dialect, true for Classic only (R12). -/
def indexIncrement (c : SessionConfig) : Bool :=
  match c.dialect with
  | .classic => true
  | .superChip => false
  | .xoChip => false

/-- The dialect's default of `Q.shift_uses_vy` (R12). -/
def defaultShiftUsesVy : Dialect → Bool
  | .classic => true
  | .superChip => false
  | .xoChip => false

/-- The dialect's default of `Q.jump_uses_vx` (R12). -/
def defaultJumpUsesVx : Dialect → Bool
  | .classic => false
  | .superChip => true
  | .xoChip => true

/-- The default `FONT`, glyphs 0 to 7; PRESUMED, the spec takes it from the CHIP-8 family (R345, D28; log entry 11). -/
def defaultFontLow : List Byte := [
  0xF0, 0x90, 0x90, 0x90, 0xF0,  0x20, 0x60, 0x20, 0x20, 0x70,
  0xF0, 0x10, 0xF0, 0x80, 0xF0,  0xF0, 0x10, 0xF0, 0x10, 0xF0,
  0x90, 0x90, 0xF0, 0x10, 0x10,  0xF0, 0x80, 0xF0, 0x10, 0xF0,
  0xF0, 0x80, 0xF0, 0x90, 0xF0,  0xF0, 0x10, 0x20, 0x40, 0x40]

/-- The default `FONT`, glyphs 8 to F; PRESUMED, the spec takes it from the CHIP-8 family (R345, D28; log entry 11). -/
def defaultFontHigh : List Byte := [
  0xF0, 0x90, 0xF0, 0x90, 0xF0,  0xF0, 0x90, 0xF0, 0x10, 0xF0,
  0xF0, 0x90, 0xF0, 0x90, 0x90,  0xE0, 0x90, 0xE0, 0x90, 0xE0,
  0xF0, 0x80, 0x80, 0x80, 0xF0,  0xE0, 0x90, 0x90, 0x90, 0xE0,
  0xF0, 0x80, 0xF0, 0x80, 0xF0,  0xF0, 0x80, 0xF0, 0x80, 0x80]

/-- The default `FONT` (R345). -/
def defaultFont : Font := ⟨(defaultFontLow ++ defaultFontHigh).toArray, rfl⟩

/-- A session of a dialect with every other parameter at its default: the spec's defaults (R11, R12) where it gives
one; FlagLast and Unmasked are DESIGN CHOICE for the two open parameters (log entries 3 and 4). -/
def dialectSession (d : Dialect) : SessionConfig where
  dialect := d
  shiftUsesVy := defaultShiftUsesVy d
  jumpUsesVx := defaultJumpUsesVx d
  vfOrder := .flagLast
  fontIndex := .unmasked
  strictDecode := false
  instrTime := 6
  timerPeriod := 50
  font := defaultFont

/-- The configuration of State.reset. Classic is DESIGN CHOICE: the spec gives no default dialect (log entry 2). -/
def resetSession : SessionConfig := dialectSession .classic

end Sys2Proof.Machine
end

