-- ==== Sys2Proof/Machine/State.lean ====
section
/-! DEFINITION. The whole state of a session (spec/10_state.md R38 to R55), the fault report (spec/60_exceptions.md R304),
the event list (R327), the reasons an outcome is no next state, and the state at construction (R53). -/

namespace Sys2Proof.Machine

/-- Memory: address and byte pairs, addresses strictly rising, no entry holding the 0 that an unlisted address reads
as; the spec's reset contents are 0 everywhere (R53, R55). -/
abbrev Memory := List Host.Cell

/-- The 64×32 grid, `video[row][col]`, row 0 at the top, column 0 at the left (R48). -/
abbrev Grid := Vector (Vector Bool screenW) screenH

/-- The five fatal conditions (R301). -/
inductive FatalKind where
  | unknownOpcode | stackOverflow | stackUnderflow | memoryOutOfBounds | keyOutOfRange
  deriving DecidableEq, Repr

/-- The detail a fatal condition records beside the snapshot (R302). -/
inductive Extra where
  /-- Nothing more. -/
  | none
  /-- `MemoryOutOfBounds`: start address and byte count of the failing access. -/
  | access (start length : Nat)
  /-- `KeyOutOfRange`: the offending value. -/
  | value (b : Byte)
  deriving DecidableEq, Repr

/-- The fault report (R304): its code is computed from its kind. -/
structure Report where
  kind   : FatalKind
  /-- The table's mnemonic, `"UNKNOWN"` or `"FETCH"`. -/
  name   : String
  /-- Recorded for every kind except a failing fetch (R302). -/
  opcode : Option Word
  v      : Vector Byte 16
  i      : Word
  pc     : Word
  sp     : Fin 17
  extra  : Extra
  deriving DecidableEq, Repr

/-- The engine mode (R51). -/
inductive Mode where
  /-- The next `step()` fetches at `PC`. -/
  | run
  /-- An `LD Vx, K` at `PC` is suspended until the host supplies a key. -/
  | waitKey (x : Nibble)
  /-- A fatal condition has ended the session. -/
  | faulted (r : Report)
  deriving DecidableEq, Repr

/-- A collaborator call, with its answer where it has one (R327). -/
inductive Event where
  | render (g : Grid)
  | isPressed (k : Nibble) (b : Bool)
  | waitKey (k : Nibble)
  | randomByte (r : Byte)
  | tick (period : Nat)
  | playSound (duration : Nat)
  | fault (r : Report)
  deriving DecidableEq, Repr

/-- The state of a session (R38), with what the interface has no other place for: the event list (R52), the session
configuration (log entry 1) and the host's pending answers (log entries 9 and 10). -/
structure State where
  /-- Session configuration; no step writes it (R11). -/
  cfg           : SessionConfig
  /-- Program counter (R39). -/
  pc            : Word
  /-- General registers; `V[15]` is VF (R42, R43). -/
  v             : Vector Byte 16
  /-- Index register (R45). -/
  i             : Word
  /-- Depth of the call stack, 0 to 16 (R47). -/
  sp            : Fin 17
  /-- Return addresses (R47). -/
  stack         : Vector Word 16
  /-- Memory (R55). -/
  mem           : Memory
  /-- Delay timer (R46). -/
  dt            : Byte
  /-- Sound timer (R46). -/
  st            : Byte
  /-- Video memory (R48). -/
  video         : Grid
  /-- Emulated-time accumulator of the pacer (R50). -/
  acc           : Nat
  /-- Engine mode (R51). -/
  mode          : Mode
  /-- Event list, NEWEST FIRST (R327; log entry 8). -/
  events        : List Event
  /-- Answers the keyboard will give to the next `IsPressed` calls, oldest first (log entry 9). -/
  keyAnswers    : List Bool
  /-- Answers the random source will give next, oldest first (log entry 9). -/
  randomAnswers : List Byte
  /-- The host's pending `supply_key` calls, oldest first (log entry 10). -/
  suppliedKeys  : List Nibble
  /-- How many free collaborator answers have been drawn (log entry 9). -/
  draws         : Nat
  deriving DecidableEq, Repr

/-- Why the machine stops with a fault. A fatal condition of the core is NOT one of these: the spec describes its entry
(R305), so the model takes it as a next state whose mode is `faulted`. -/
inductive Fault where
  /-- Raised by the host operation `loadData` after a fatal condition has ended the session with this report
  (R22, R306; log entry 12). Safe: the model stops where the spec gives the call no meaning. -/
  | sessionOver (r : Report)
  deriving DecidableEq, Repr

/-- Why there is no meaning. Every one is about a host call that the spec says has no move in the model (R326), but for
`notModelled`. -/
inductive Refusal where
  /-- Raised by no arm: every instruction has its meaning. Safe. -/
  | notModelled (mnemonic : String)
  /-- Raised by `loadData` when the host breaks its duty `offset + length ≤ 4096` (R80). Safe. -/
  | loadOutOfBounds (offset length : Nat)
  /-- Raised by `supplyKey` when the engine is not waiting for a key: it runs, or a fatal condition has ended the session
  (R326; log entry 16). Safe. -/
  | notWaiting
  /-- Raised by `supplyKey` for a key outside 0 to 15 (R321, R326). Safe. -/
  | keyOutsideContract (k : Nat)
  deriving DecidableEq, Repr

/-- Construction of a session with a configuration (R53, R340): everything zero or false except `PC`; `acc = 0` and
`mode = Run` by the spec's decisions D17 and D22; no collaborator called (R342). -/
def State.construct (c : SessionConfig) : State where
  cfg := c
  pc := BitVec.ofNat 16 entryPoint
  v := Vector.replicate 16 0
  i := 0
  sp := 0
  stack := Vector.replicate 16 0
  mem := []
  dt := 0
  st := 0
  video := Vector.replicate screenH (Vector.replicate screenW false)
  acc := 0
  mode := .run
  events := []
  keyAnswers := []
  randomAnswers := []
  suppliedKeys := []
  draws := 0

/-- The machine right after reset: construction (R340) with the configuration of log entries 2 to 6 and 11. -/
def State.reset : State := State.construct resetSession

end Sys2Proof.Machine
end

