-- ==== Sys2Proof/Machine/Ops.lean ====
section
/-! DEFINITION. The named operations of the blocks (spec/10_state.md R31 to R36): memory, registers, program counter, call
stack, grid, collaborators, and entering the fault state (spec/60_exceptions.md R305). -/

namespace Sys2Proof.Machine

/-! ## Memory unit (R34, R70 to R80) -/

/-- The byte at an address; an unlisted address reads 0 (R53). -/
def Memory.read : Memory → Nat → Byte
  | [], _ => 0
  | (k, b) :: m, a => if a = k then b else Memory.read m a

/-- Store one byte, keeping the canonical form (R75: only the named byte changes). -/
def Memory.write : Memory → Nat → Byte → Memory
  | [], a, b => if b = 0 then [] else [(a, b)]
  | (k, c) :: m, a, b =>
    if a < k then (if b = 0 then (k, c) :: m else (a, b) :: (k, c) :: m)
    else if a = k then (if b = 0 then m else (a, b) :: m)
    else (k, c) :: Memory.write m a b

/-- `MemRead(a, n)` less its range check (R16). -/
def Memory.readBytes (m : Memory) (a : Nat) : Nat → List Byte
  | 0 => []
  | n + 1 => m.read a :: Memory.readBytes m (a + 1) n

/-- `MemWrite(a, n, bs)` less its range check (R16). -/
def Memory.writeBytes (m : Memory) (a : Nat) : List Byte → Memory
  | [] => m
  | b :: bs => Memory.writeBytes (m.write a b) (a + 1) bs

/-- Canonical from an address on: addresses rising and inside the space, no entry equal to what is read unlisted. -/
def Memory.wfFrom : Nat → Memory → Bool
  | _, [] => true
  | lo, (k, b) :: m => decide (lo ≤ k) && decide (k < memSize) && decide (b ≠ 0) && Memory.wfFrom (k + 1) m

/-- The canonical form of memory. -/
def Memory.wf (m : Memory) : Bool := Memory.wfFrom 0 m

/-- `InRange(a, n)`: the access fits the address space, on unbounded integers, also for `n = 0` (R73, D10). -/
def inRange (a n : Nat) : Bool := decide (a + n ≤ memSize)

/-- `Fetch(a)` (R76). -/
def State.fetch (s : State) (a : Nat) : Word := opcodeOf (s.mem.read a) (s.mem.read (a + 1))

/-! ## Register file (R32, R42, R45) -/

/-- `readV(r)`. -/
def State.getV (s : State) (r : Nibble) : Byte := s.v[r.toNat]'r.isLt

/-- `writeV(r, b)`. -/
def State.setV (s : State) (r : Nibble) (b : Byte) : State := { s with v := s.v.set r.toNat b r.isLt }

/-- `writeI(n)`, which stores `n mod 2^16`. -/
def State.setI (s : State) (n : Nat) : State := { s with i := BitVec.ofNat 16 n }

/-- VF, the register the flag goes to (R43). -/
def vf : Nibble := 15

/-- `WriteRF(x, r, f)`: result and flag in the order of `VF_ORDER` (R190). -/
def State.writeRF (s : State) (x : Nibble) (result flag : Byte) : State :=
  match s.cfg.vfOrder with
  | .flagLast => (s.setV x result).setV vf flag
  | .resultLast => (s.setV vf flag).setV x result

/-- Registers `V[j]`, `V[j+1]`, … take the bytes of a list in turn (R235). -/
def State.loadRegs (s : State) (j : Nat) : List Byte → State
  | [] => s
  | b :: bs => State.loadRegs (s.setV (BitVec.ofNat 4 j) b) (j + 1) bs

/-! ## Program counter (R31, R39, R134) -/

/-- `pc <- t`, which stores `t mod 4096` (R39): the class `Jump(t)`. -/
def State.jump (s : State) (t : Nat) : State := { s with pc := BitVec.ofNat 16 (t % memSize) }

/-- `advance(k)`: `pc <- PC + 2·k` (R31). -/
def State.advance (s : State) (k : Nat) : State := s.jump (s.pc.toNat + 2 * k)

/-- The class `Seq` (R134). -/
def State.seq (s : State) : State := s.advance 1

/-- The class `Skip(c)` (R134). -/
def State.skip (s : State) (c : Bool) : State := s.advance (if c then 2 else 1)

/-! ## Call stack (R35, R47) -/

/-- `push(t)`; none when `SP = 16`. -/
def State.push (s : State) (t : Word) : Option State :=
  if h : s.sp.val < stackDepth then
    some { s with stack := s.stack.set s.sp.val t h, sp := ⟨s.sp.val + 1, Nat.succ_lt_succ h⟩ }
  else none

/-- `pop()`: the top entry and the state with `SP` lowered, the entry itself kept; none when `SP = 0`. -/
def State.pop (s : State) : Option (Word × State) :=
  if s.sp.val = 0 then none
  else some (s.stack[s.sp.val - 1]'(by omega), { s with sp := ⟨s.sp.val - 1, by omega⟩ })

/-! ## Grid (R36, R48) -/

/-- The all-false grid. -/
def Grid.clear : Grid := Vector.replicate screenH (Vector.replicate screenW false)

/-- The cell at a row and a column, each reduced modulo the screen (R284: addressing wraps). -/
def Grid.cell (g : Grid) (r c : Nat) : Bool :=
  (g[r % screenH]'(Nat.mod_lt _ (by decide)))[c % screenW]'(Nat.mod_lt _ (by decide))

/-- Write the cell at a row and a column, each reduced modulo the screen. -/
def Grid.setCell (g : Grid) (r c : Nat) (b : Bool) : Grid :=
  let row := g[r % screenH]'(Nat.mod_lt _ (by decide))
  g.set (r % screenH) (row.set (c % screenW) b (Nat.mod_lt _ (by decide))) (Nat.mod_lt _ (by decide))

/-! ## Collaborators (R320 to R327) -/

/-- Record a collaborator call (R327). -/
def State.emit (s : State) (e : Event) : State := { s with events := e :: s.events }

/-- The event list in the order the calls were made (R135, R327). -/
def State.eventLog (s : State) : List Event := s.events.reverse

/-- The answer `IsPressed(k)` gets: the next one the host has placed, else a free value (R320, D26; log entry 9). -/
def State.pressedAnswer (s : State) (k : Nibble) : Bool :=
  match s.keyAnswers with
  | b :: _ => b
  | [] => Config.freePressed s.draws k

/-- `IsPressed(k)`: the answer is used up and the call recorded. -/
def State.askPressed (s : State) (k : Nibble) : State :=
  State.emit
    { s with
      keyAnswers := s.keyAnswers.tail
      draws := if s.keyAnswers.isEmpty then s.draws + 1 else s.draws }
    (.isPressed k (s.pressedAnswer k))

/-- The answer `RandomByte()` gets: the next one the host has placed, else a free value (R322, D26; log entry 9). -/
def State.randomAnswer (s : State) : Byte :=
  match s.randomAnswers with
  | r :: _ => r
  | [] => Config.freeRandom s.draws

/-- `RandomByte()`: the answer is used up and the call recorded. -/
def State.askRandom (s : State) : State :=
  State.emit
    { s with
      randomAnswers := s.randomAnswers.tail
      draws := if s.randomAnswers.isEmpty then s.draws + 1 else s.draws }
    (.randomByte s.randomAnswer)

/-- `Render(snapshot(video))` (R324). -/
def State.render (s : State) : State := s.emit (.render s.video)

/-! ## Fatal conditions (R301 to R306) -/

/-- The code of a fatal condition (R301). -/
def FatalKind.code : FatalKind → Nat
  | .unknownOpcode => 1
  | .stackOverflow => 2
  | .stackUnderflow => 3
  | .memoryOutOfBounds => 4
  | .keyOutOfRange => 5

/-- The code a report shows (R304). -/
def Report.code (r : Report) : Nat := r.kind.code

/-- The report of a failure at a state: the snapshot is that state (R304, D11). -/
def State.report (s : State) (kind : FatalKind) (name : String) (opcode : Option Word) (extra : Extra) : Report where
  kind := kind
  name := name
  opcode := opcode
  v := s.v
  i := s.i
  pc := s.pc
  sp := s.sp
  extra := extra

/-- Entering the fault state: nothing else is written, and the report is the step's one event (R305, R327). -/
def State.enterFault (s : State) (r : Report) : State := State.emit { s with mode := .faulted r } (.fault r)

/-- `raise` in an instruction's execute phase: the report names the instruction and holds its opcode (R17, R304). -/
def State.raise (s : State) (kind : FatalKind) (i : Instr) (extra : Extra) : State :=
  s.enterFault (s.report kind i.mnemonic (some (encode i)) extra)

/-- `raise UnknownOpcode` at decode (R108, R132, R304). -/
def State.raiseUnknown (s : State) (opcode : Word) : State :=
  s.enterFault (s.report .unknownOpcode "UNKNOWN" (some opcode) .none)

/-- `raise MemoryOutOfBounds` at a failing fetch: no opcode, `PC` and 2 (R77, R302, R304). -/
def State.raiseFetch (s : State) : State :=
  s.enterFault (s.report .memoryOutOfBounds "FETCH" none (.access s.pc.toNat 2))

end Sys2Proof.Machine
end

