-- ==== Sys2Proof/Machine/Operands.lean ====
section
/-! DEFINITION. Operand forms: which value or address an instruction works on, quirks included (spec/30_encoding.md R102,
R103; spec/00_scope.md R12). -/

namespace Sys2Proof.Machine

/-- The operand of a shift: `V[y]` when `Q.shift_uses_vy`, else `V[x]` (R200, R202). -/
def shiftSource (s : State) (x y : Nibble) : Byte := if s.cfg.shiftUsesVy then s.getV y else s.getV x

/-- The register `JP V0, addr` adds: `V[x]` with `x = nnn[11:8]` when `Q.jump_uses_vx`, else `V[0]` (R164). -/
def jumpRegister (s : State) (nnn : Addr) : Nibble := if s.cfg.jumpUsesVx then nnn.extractLsb' 8 4 else 0

/-- The target of `JP V0, addr` before its reduction (R164). -/
def jumpTarget (s : State) (nnn : Addr) : Nat := nnn.toNat + (s.getV (jumpRegister s nnn)).toNat

/-- The return address `CALL` pushes: `(PC + 2) mod 4096` (R160, R161). -/
def returnAddress (s : State) : Word := BitVec.ofNat 16 ((s.pc.toNat + 2) % memSize)

/-- The digit `LD F, Vx` takes: the value, or its low nibble when `FONT_INDEX = LowNibble` (R232). -/
def fontDigit (s : State) (x : Nibble) : Nat :=
  match s.cfg.fontIndex with
  | .unmasked => (s.getV x).toNat
  | .lowNibble => (s.getV x).toNat % 16

/-- Hundreds, tens and units of a byte (R233). -/
def decimalDigits (b : Byte) : List Byte :=
  [BitVec.ofNat 8 (b.toNat / 100), BitVec.ofNat 8 (b.toNat / 10 % 10), BitVec.ofNat 8 (b.toNat % 10)]

/-- `V[0]` … `V[x]`, the bytes `LD [I], Vx` stores (R234). -/
def registerBlock (s : State) (x : Nibble) : List Byte :=
  (List.range (x.toNat + 1)).map fun j => s.getV (BitVec.ofNat 4 j)

/-- The address every data access uses: the full value of `I` (R73, R236). -/
def dataAddress (s : State) : Nat := s.i.toNat

/-- `I` after a block transfer of `x + 1` bytes: moved on modulo 2^16 when `Q.index_increment` (R234 to R236). -/
def indexAfterBlock (s : State) (x : Nibble) : Nat :=
  if indexIncrement s.cfg then s.i.toNat + x.toNat + 1 else s.i.toNat

/-- A key number is a value 0 to 15 (R169, R320). -/
def isKey (b : Byte) : Bool := decide (b.toNat ≤ 15)

end Sys2Proof.Machine
end

