-- ==== Sys2Proof/Machine/ControlFlow.lean ====
section
/-! DEFINITION. Control transfer (spec/41_control_flow.md R160 to R172). -/

namespace Sys2Proof.Machine

/-- An instruction's answer. -/
abbrev Answer := Host.Outcome State Fault Refusal

/-- `RET` (R162): pop and jump, no advance; the argument is the ignored field, kept for the report. -/
def execRet (ignored : Nibble) (s : State) : Answer :=
  match s.pop with
  | none => .next (s.raise .stackUnderflow (.ret ignored) .none)
  | some (t, s') => .next (s'.jump t.toNat)

/-- `JP addr` (R163). -/
def execJp (nnn : Addr) (s : State) : Answer := .next (s.jump nnn.toNat)

/-- `CALL addr` (R160, R161). -/
def execCall (nnn : Addr) (s : State) : Answer :=
  match s.push (returnAddress s) with
  | none => .next (s.raise .stackOverflow (.call nnn) .none)
  | some s' => .next (s'.jump nnn.toNat)

/-- `SE Vx, byte` (R165). -/
def execSeImm (x : Nibble) (kk : Byte) (s : State) : Answer := .next (s.skip (s.getV x == kk))

/-- `SNE Vx, byte` (R166). -/
def execSneImm (x : Nibble) (kk : Byte) (s : State) : Answer := .next (s.skip (s.getV x != kk))

/-- `SE Vx, Vy` (R167). -/
def execSeReg (x y : Nibble) (s : State) : Answer := .next (s.skip (s.getV x == s.getV y))

/-- `SNE Vx, Vy` (R168). -/
def execSneReg (x y : Nibble) (s : State) : Answer := .next (s.skip (s.getV x != s.getV y))

/-- `JP V0, addr` (R164). -/
def execJpV0 (nnn : Addr) (s : State) : Answer := .next (s.jump (jumpTarget s nnn))

/-- `SKP Vx` (R169): the check comes before the query. -/
def execSkp (x : Nibble) (s : State) : Answer :=
  let k := s.getV x
  if isKey k then
    let key : Nibble := BitVec.ofNat 4 k.toNat
    .next ((s.askPressed key).skip (s.pressedAnswer key))
  else .next (s.raise .keyOutOfRange (.skp x) (.value k))

/-- `SKNP Vx` (R170). -/
def execSknp (x : Nibble) (s : State) : Answer :=
  let k := s.getV x
  if isKey k then
    let key : Nibble := BitVec.ofNat 4 k.toNat
    .next ((s.askPressed key).skip (!s.pressedAnswer key))
  else .next (s.raise .keyOutOfRange (.sknp x) (.value k))

end Sys2Proof.Machine
end

