-- ==== Sys2Proof/Machine/Blit.lean ====
section
/-! DEFINITION. The sprite_blit_unit_with_xor_collision (spec/45_display.md R282 to R286). -/

namespace Sys2Proof.Machine

/-- A blit under way: the grid, and whether a collision has been seen. -/
structure BlitState where
  grid : Grid
  hit  : Bool
  deriving DecidableEq, Repr

/-- One sprite bit at a target cell: a 1 bit records a collision with a true cell and toggles the cell; a 0 bit leaves
it (R282, R283). -/
def blitBit (b : BlitState) (r c : Nat) (bit : Bool) : BlitState :=
  if bit then
    { grid := b.grid.setCell r c (!b.grid.cell r c), hit := b.hit || b.grid.cell r c }
  else b

/-- One sprite byte at a row: bit `7 - c` goes to column `col0 + c` (R282, R286). -/
def blitByte (col0 r : Nat) (byte : Byte) (b : BlitState) : BlitState :=
  (List.range 8).foldl (fun acc c => blitBit acc r (col0 + c) (byte.getLsbD (7 - c))) b

/-- The rows of a sprite, top to bottom from a row on (R282, R286). -/
def blitRows (col0 : Nat) : Nat → List Byte → BlitState → BlitState
  | _, [], b => b
  | r, byte :: rows, b => blitRows col0 (r + 1) rows (blitByte col0 r byte b)

/-- `blit(col0, row0, rows)` on a grid; rows and columns wrap in the cell addressing (R282, R284). -/
def blit (g : Grid) (col0 row0 : Nat) (rows : List Byte) : BlitState :=
  blitRows col0 row0 rows { grid := g, hit := false }

end Sys2Proof.Machine
end

