-- ==== Sys2Proof/Machine/Flags.lean ====
section
/-! DEFINITION. Every flag VF receives and the result beside it (spec/42_register_alu.md R191): exact integers first,
narrowed at the end. -/

namespace Sys2Proof.Machine

/-- A flag as the byte VF holds. -/
def flagByte (b : Bool) : Byte := if b then 1 else 0

/-- `(a + b) mod 256` (R193, R198). -/
def addResult (a b : Byte) : Byte := BitVec.ofNat 8 (a.toNat + b.toNat)

/-- Carry out of bit 7: the exact sum is over 255 (R191, R198). -/
def carryFlag (a b : Byte) : Byte := flagByte (decide (a.toNat + b.toNat > 255))

/-- `(a − b) mod 256`, from the exact signed difference (R199). -/
def subResult (a b : Byte) : Byte := BitVec.ofInt 8 ((a.toNat : Int) - (b.toNat : Int))

/-- No borrow: the exact difference is not negative, zero included (R191, R199). -/
def noBorrowFlag (a b : Byte) : Byte := flagByte (decide ((a.toNat : Int) - (b.toNat : Int) ≥ 0))

/-- `src >> 1` (R200). -/
def shrResult (a : Byte) : Byte := BitVec.ofNat 8 (a.toNat / 2)

/-- The bit a right shift moves out, bit 0 (R200). -/
def shrFlag (a : Byte) : Byte := flagByte (a.getLsbD 0)

/-- `(src << 1) mod 256` (R202). -/
def shlResult (a : Byte) : Byte := BitVec.ofNat 8 (a.toNat * 2)

/-- The bit a left shift moves out, bit 7 (R202). -/
def shlFlag (a : Byte) : Byte := flagByte (a.getLsbD 7)

end Sys2Proof.Machine
end

