-- ==== Sys2Proof/Machine/Display.lean ====
section
/-! DEFINITION. Display instructions (spec/45_display.md R280, R281, R285). Both are of class `Seq`. -/

namespace Sys2Proof.Machine

/-- `CLS` (R280). -/
def execCls (s : State) : Answer := .next (State.render { s with video := Grid.clear }).seq

/-- The blit of a `DRW` that passes its range check: start coordinates modulo the screen, sprite bytes at `I` (R281). -/
def drawBlit (s : State) (x y n : Nibble) : BlitState :=
  blit s.video ((s.getV x).toNat % screenW) ((s.getV y).toNat % screenH) (s.mem.readBytes (dataAddress s) n.toNat)

/-- `DRW Vx, Vy, nibble` (R281). -/
def execDrw (x y n : Nibble) (s : State) : Answer :=
  if inRange (dataAddress s) n.toNat then
    let b := drawBlit s x y n
    .next (State.setV { s with video := b.grid } vf (flagByte b.hit)).render.seq
  else .next (s.raise .memoryOutOfBounds (.drw x y n) (.access (dataAddress s) n.toNat))

end Sys2Proof.Machine
end

