-- ==== Sys2Proof/Machine/IndexMemory.lean ====
section
/-! DEFINITION. Index register and memory instructions (spec/43_index_memory.md R230 to R236). Every one is of class
`Seq`; each memory access is range-checked before any write (spec/20_memory.md R73, R74). -/

namespace Sys2Proof.Machine

/-- `LD I, addr` (R230). -/
def execLdI (nnn : Addr) (s : State) : Answer := .next (s.setI nnn.toNat).seq

/-- `ADD I, Vx` (R231): modulo 2^16, VF not written. -/
def execAddI (x : Nibble) (s : State) : Answer := .next (s.setI (s.i.toNat + (s.getV x).toNat)).seq

/-- `LD F, Vx` (R232). -/
def execLdF (x : Nibble) (s : State) : Answer := .next (s.setI (fontBase + fontStride * fontDigit s x)).seq

/-- `LD B, Vx` (R233). -/
def execLdB (x : Nibble) (s : State) : Answer :=
  if inRange (dataAddress s) 3 then
    .next { s with mem := s.mem.writeBytes (dataAddress s) (decimalDigits (s.getV x)) }.seq
  else .next (s.raise .memoryOutOfBounds (.ldB x) (.access (dataAddress s) 3))

/-- `LD [I], Vx` (R234). -/
def execLdMemStore (x : Nibble) (s : State) : Answer :=
  if inRange (dataAddress s) (x.toNat + 1) then
    .next (State.setI { s with mem := s.mem.writeBytes (dataAddress s) (registerBlock s x) } (indexAfterBlock s x)).seq
  else .next (s.raise .memoryOutOfBounds (.ldMemStore x) (.access (dataAddress s) (x.toNat + 1)))

/-- `LD Vx, [I]` (R235). -/
def execLdMemLoad (x : Nibble) (s : State) : Answer :=
  if inRange (dataAddress s) (x.toNat + 1) then
    .next ((s.loadRegs 0 (s.mem.readBytes (dataAddress s) (x.toNat + 1))).setI (indexAfterBlock s x)).seq
  else .next (s.raise .memoryOutOfBounds (.ldMemLoad x) (.access (dataAddress s) (x.toNat + 1)))

end Sys2Proof.Machine
end

