-- ==== Sys2Proof/Machine/RegisterAlu.lean ====
section
/-! DEFINITION. Register loads and the ALU (spec/42_register_alu.md R190 to R203). Every one is of class `Seq`. -/

namespace Sys2Proof.Machine

/-- The write of `OR`, `AND`, `XOR`: with VF ← 0 when `Q.vf_reset` (R195 to R197). -/
def writeBitwise (s : State) (x : Nibble) (result : Byte) : State :=
  if vfReset s.cfg then s.writeRF x result (flagByte false) else s.setV x result

/-- `LD Vx, byte` (R192). -/
def execLdImm (x : Nibble) (kk : Byte) (s : State) : Answer := .next (s.setV x kk).seq

/-- `ADD Vx, byte` (R193): no flag. -/
def execAddImm (x : Nibble) (kk : Byte) (s : State) : Answer := .next (s.setV x (addResult (s.getV x) kk)).seq

/-- `LD Vx, Vy` (R194). -/
def execLdReg (x y : Nibble) (s : State) : Answer := .next (s.setV x (s.getV y)).seq

/-- `OR Vx, Vy` (R195). -/
def execOr (x y : Nibble) (s : State) : Answer := .next (writeBitwise s x (s.getV x ||| s.getV y)).seq

/-- `AND Vx, Vy` (R196). -/
def execAnd (x y : Nibble) (s : State) : Answer := .next (writeBitwise s x (s.getV x &&& s.getV y)).seq

/-- `XOR Vx, Vy` (R197). -/
def execXor (x y : Nibble) (s : State) : Answer := .next (writeBitwise s x (s.getV x ^^^ s.getV y)).seq

/-- `ADD Vx, Vy` (R198). -/
def execAddReg (x y : Nibble) (s : State) : Answer :=
  .next (s.writeRF x (addResult (s.getV x) (s.getV y)) (carryFlag (s.getV x) (s.getV y))).seq

/-- `SUB Vx, Vy` (R199). -/
def execSub (x y : Nibble) (s : State) : Answer :=
  .next (s.writeRF x (subResult (s.getV x) (s.getV y)) (noBorrowFlag (s.getV x) (s.getV y))).seq

/-- `SHR Vx {, Vy}` (R200). -/
def execShr (x y : Nibble) (s : State) : Answer :=
  .next (s.writeRF x (shrResult (shiftSource s x y)) (shrFlag (shiftSource s x y))).seq

/-- `SUBN Vx, Vy` (R201): `Vy − Vx`. -/
def execSubn (x y : Nibble) (s : State) : Answer :=
  .next (s.writeRF x (subResult (s.getV y) (s.getV x)) (noBorrowFlag (s.getV y) (s.getV x))).seq

/-- `SHL Vx {, Vy}` (R202). -/
def execShl (x y : Nibble) (s : State) : Answer :=
  .next (s.writeRF x (shlResult (shiftSource s x y)) (shlFlag (shiftSource s x y))).seq

/-- `RND Vx, byte` (R203). -/
def execRnd (x : Nibble) (kk : Byte) (s : State) : Answer := .next (s.askRandom.setV x (s.randomAnswer &&& kk)).seq

end Sys2Proof.Machine
end

