-- ==== Sys2Proof/Machine/TimersKeys.lean ====
section
/-! DEFINITION. Timer and key-wait instructions (spec/44_timers_keys.md R260 to R263). -/

namespace Sys2Proof.Machine

/-- `LD Vx, DT` (R260). -/
def execLdVxDT (x : Nibble) (s : State) : Answer := .next (s.setV x s.dt).seq

/-- `LD DT, Vx` (R261). -/
def execLdDT (x : Nibble) (s : State) : Answer := .next { s with dt := s.getV x }.seq

/-- `LD ST, Vx` (R262). -/
def execLdST (x : Nibble) (s : State) : Answer := .next { s with st := s.getV x }.seq

/-- `LD Vx, K` (R137, R263), class `Suspend(x)`: `PC` and the registers stay; the engine waits. Its completion is
`State.completeWait` (Machine/HostPort.lean). -/
def execLdVxK (x : Nibble) (s : State) : Answer := .next { s with mode := .waitKey x }

end Sys2Proof.Machine
end

