-- ==== Sys2Proof/Machine/Pacer.lean ====
section
/-! DEFINITION. The timer_pacer (spec/40_engine_cycle.md R140 to R148). -/

namespace Sys2Proof.Machine

/-- Down by one, clamped at 0 (R143). -/
def countDown (b : Byte) : Byte := if b = 0 then 0 else b - 1

/-- One crossed period: the accumulator, both timers, one `Tick` (R141, R143, R144). -/
def State.crossPeriod (s : State) : State :=
  State.emit
    { s with acc := s.acc - s.cfg.timerPeriod, dt := countDown s.dt, st := countDown s.st }
    (.tick s.cfg.timerPeriod)

/-- The sound time one crossed period adds: the period when `ST ≠ 0` at its start (R145). -/
def State.soundOfPeriod (s : State) : Nat := if s.st = 0 then 0 else s.cfg.timerPeriod

/-- The while loop of `pace()` (R141), with fuel: the state after it and the sound time gathered. The accumulator is
fuel enough when `TIMER_PERIOD` is positive (log entry 6). -/
def paceLoop : Nat → Nat → State → State × Nat
  | 0, sound, s => (s, sound)
  | fuel + 1, sound, s =>
    if s.cfg.timerPeriod ≤ s.acc then paceLoop fuel (sound + s.soundOfPeriod) s.crossPeriod
    else (s, sound)

/-- The accumulator advanced by one instruction (R141). -/
def State.addInstrTime (s : State) : State := { s with acc := s.acc + s.cfg.instrTime }

/-- `pace()`: run once after every completed instruction (R141, R146). -/
def State.pace (s : State) : State :=
  let r := paceLoop s.addInstrTime.acc 0 s.addInstrTime
  r.1.emit (.playSound r.2)

end Sys2Proof.Machine
end

