-- ==== Sys2Proof/Machine/HostPort.lean ====
section
/-! DEFINITION. The host's operations beside `step()` (spec/10_state.md R30; spec/60_exceptions.md R326): `supply_key`,
`load_data`, and the boot that uses it (spec/70_reset_and_hazards.md R343). -/

namespace Sys2Proof.Machine

/-- `supply_key(k)` on an engine that waits: finish the `LD Vx, K`, which is executed once and paced once (R138). -/
def State.completeWait (s : State) (x k : Nibble) : State :=
  let resumed := State.seq (State.setV { s with mode := .run } x (BitVec.ofNat 8 k.toNat))
  (resumed.emit (.waitKey k)).pace

/-- `supply_key(k)` (R138, R326): a key outside 0 to 15, and a call when the engine is not waiting, faulted or not, have
no move (log entry 16). -/
def supplyKey (k : Nat) (s : State) : Answer :=
  if k < 16 then
    match s.mode with
    | .waitKey x => .next (s.completeWait x (BitVec.ofNat 4 k))
    | .run | .faulted _ => .refused .notWaiting
  else .refused (.keyOutsideContract k)

/-- `load_data(bytes, offset)` between two steps (R80): refused when the host breaks its bound; after a fatal condition
the session is over (R22, R306; log entry 12). -/
def loadData (bytes : List Byte) (offset : Nat) (s : State) : Answer :=
  match s.mode with
  | .faulted r => .fault (.sessionOver r)
  | .run | .waitKey _ =>
    if inRange offset bytes.length then .next { s with mem := s.mem.writeBytes offset bytes }
    else .refused (.loadOutOfBounds offset bytes.length)

/-- The conventional boot: construction, the session's font at 0, the program at the entry point (R81, R343). -/
def boot (c : SessionConfig) (rom : List Byte) : Answer :=
  match loadData c.font.toList fontBase (State.construct c) with
  | .next s => loadData rom entryPoint s
  | .fault r => .fault r
  | .refused r => .refused r

end Sys2Proof.Machine
end

