-- ==== Sys2Proof/Machine/Engine.lean ====
section
/-! DEFINITION. The fetch_decode_execute_engine (spec/40_engine_cycle.md R130 to R139). -/

namespace Sys2Proof.Machine

/-- What follows an execute phase: pace when the instruction completed, nothing when it suspended the engine or entered
the fault state (R130, R137, R305). -/
def State.afterExecute (s : State) : State :=
  match s.mode with
  | .run => s.pace
  | .waitKey _ => s
  | .faulted _ => s

/-- The end of a step, on an execute phase's answer (R130). -/
def finishStep : Answer → Answer
  | .next s => .next s.afterExecute
  | .fault r => .fault r
  | .refused r => .refused r

/-- Fetch, decode, execute and pace of an engine that runs (R130 to R134). -/
def runStep (s : State) : Answer :=
  if inRange s.pc.toNat 2 then
    match decode s.cfg.strictDecode (s.fetch s.pc.toNat) with
    | .known i => finishStep (exec i s)
    | .unknown => .next (s.raiseUnknown (s.fetch s.pc.toNat))
  else .next s.raiseFetch

/-- `step()`: no effect while the engine waits or after a fault (R130, R138, R306). -/
def engineStep (s : State) : Answer :=
  match s.mode with
  | .run => runStep s
  | .waitKey _ => .next s
  | .faulted _ => .next s

/-- One move of a session, as `run_count` makes it (R139): the host's pending `supply_key` call when the engine waits and
there is one, else `step()` (log entry 10). -/
def sessionStep (s : State) : Answer :=
  match s.mode, s.suppliedKeys with
  | .waitKey _, k :: ks => supplyKey k.toNat { s with suppliedKeys := ks }
  | _, _ => engineStep s

/-- `run_count(N)` (R139), making at most a number of moves: it stops after N completed instructions, at a fault, or
when the moves are used up (a wait no key ends). An instruction has completed when a move leaves the engine running, so
an `LD Vx, K` counts once, on resumption. -/
def runCount : Nat → Nat → State → Answer
  | 0, _, s => .next s
  | _ + 1, 0, s => .next s
  | moves + 1, n + 1, s =>
    match sessionStep s with
    | .next t =>
      match t.mode with
      | .run => runCount moves n t
      | .waitKey _ => runCount moves (n + 1) t
      | .faulted _ => .next t
    | .fault r => .fault r
    | .refused r => .refused r

/-- An opcode stored where the next fetch reads, the engine made to run; the fetch needs nothing else. Where no fetch
can succeed (`PC = 4095`, R77) nothing is stored. -/
def State.placeOpcode (s : State) (w : Word) : State :=
  if inRange s.pc.toNat 2 then
    { s with
      mem := s.mem.writeBytes s.pc.toNat [w.extractLsb' 8 8, w.extractLsb' 0 8]
      mode := .run }
  else s

end Sys2Proof.Machine
end

