-- ==== Sys2Proof/Machine/Step.lean ====
section
/-! DEFINITION. One step of the machine, and placing an instruction for it. -/

namespace Sys2Proof.Machine

/-- One step: one move of the session (spec/40_engine_cycle.md R130, R138, R139). -/
def step (s : State) : Host.Outcome State Fault Refusal := sessionStep s

/-- `s` with the instruction whose bits are `w`, as spec/opcode_table.json numbers them, stored where the next fetch
reads: every instruction is 16 bits (R100), bits from `nbits` on are 0. -/
def State.withFetchWord (s : State) (nbits w : Nat) : State := s.placeOpcode (BitVec.ofNat 16 (w % 2 ^ nbits))

end Sys2Proof.Machine
end

