-- ==== Sys2Proof/Safety.lean ====
section
/-! DEFINITION. What counts as a safe run, the invariant of the machine, and the words statements use: which parts of the
state a change leaves alone, and where a result and a flag end up. -/

namespace Sys2Proof.Machine

/-- No fatal condition has ended the session (R149: a faulted state is never a successful end of a run). -/
abbrev State.Alive (s : State) : Prop := ∀ r, s.mode ≠ .faulted r

/-- The report of a faulted session shows the registers the state still has (R304, R305). -/
def State.ReportFits (s : State) : Prop :=
  ∀ r, s.mode = .faulted r → r.v = s.v ∧ r.i = s.i ∧ r.pc = s.pc ∧ r.sp = s.sp

/-- The invariant of the machine: memory canonical and inside its space, `PC` below 4096 (R39), return addresses below
4096 (R161), the accumulator below a period (R50), the time parameters positive (R140), and the report of a faulted
session fitting its state (R305). -/
structure State.Inv (s : State) : Prop where
  memory  : s.mem.wf = true
  pc      : s.pc.toNat < memSize
  stack   : ∀ (k : Nat) (h : k < 16), s.stack[k].toNat < memSize
  times   : s.cfg.Positive
  acc     : s.acc < s.cfg.timerPeriod
  report  : s.ReportFits

/-- The parts of a state a frame speaks of. -/
inductive Part where
  | cfg | pc | v | i | sp | stack | mem | dt | st | video | acc | mode | events
  | keyAnswers | randomAnswers | suppliedKeys | draws
  deriving DecidableEq, Repr

/-- A part is the same in two states. Memory is compared byte by byte. -/
def Part.Same : Part → State → State → Prop
  | .cfg, s, t => t.cfg = s.cfg
  | .pc, s, t => t.pc = s.pc
  | .v, s, t => ∀ r, t.getV r = s.getV r
  | .i, s, t => t.i = s.i
  | .sp, s, t => t.sp = s.sp
  | .stack, s, t => t.stack = s.stack
  | .mem, s, t => ∀ a, t.mem.read a = s.mem.read a
  | .dt, s, t => t.dt = s.dt
  | .st, s, t => t.st = s.st
  | .video, s, t => ∀ r c, t.video.cell r c = s.video.cell r c
  | .acc, s, t => t.acc = s.acc
  | .mode, s, t => t.mode = s.mode
  | .events, s, t => t.events = s.events
  | .keyAnswers, s, t => t.keyAnswers = s.keyAnswers
  | .randomAnswers, s, t => t.randomAnswers = s.randomAnswers
  | .suppliedKeys, s, t => t.suppliedKeys = s.suppliedKeys
  | .draws, s, t => t.draws = s.draws

/-- Only the listed parts may differ. -/
abbrev ChangesOnly (parts : List Part) (s t : State) : Prop := ∀ p, p ∉ parts → p.Same s t

/-- Only one general register may differ. -/
abbrev OnlyV (x : Nibble) (s t : State) : Prop := ∀ r, r ≠ x → t.getV r = s.getV r

/-- `PC` has moved on by `2·k`, modulo 4096 (R31, R134). -/
abbrev Advanced (k : Nat) (s t : State) : Prop := t.pc.toNat = (s.pc.toNat + 2 * k) % memSize

/-- What `WriteRF(x, result, flag)` leaves in the register file (R190): each in its place, and where both go to VF the
one that `VF_ORDER` names; every other register as before. -/
structure WroteRF (s t : State) (x : Nibble) (result flag : Byte) : Prop where
  atX    : x ≠ vf → t.getV x = result
  atVf   : x ≠ vf → t.getV vf = flag
  atBoth : x = vf → t.getV vf = (if s.cfg.vfOrder = .flagLast then flag else result)
  others : ∀ r, r ≠ x → r ≠ vf → t.getV r = s.getV r

/-- `Q.vf_reset` and `Q.index_increment` are in force: the Classic dialect (R12). -/
abbrev State.Classic (s : State) : Prop := s.cfg.dialect = .classic

/-- How many of a list of events are `Tick` calls (R144). -/
def tickCount : List Event → Nat
  | [] => 0
  | .tick _ :: es => tickCount es + 1
  | .render _ :: es => tickCount es
  | .isPressed _ _ :: es => tickCount es
  | .waitKey _ :: es => tickCount es
  | .randomByte _ :: es => tickCount es
  | .playSound _ :: es => tickCount es
  | .fault _ :: es => tickCount es

/-- The sum of the arguments of the `PlaySound` calls in a list of events (R146, R148). -/
def soundTotal : List Event → Nat
  | [] => 0
  | .playSound d :: es => soundTotal es + d
  | .tick _ :: es => soundTotal es
  | .render _ :: es => soundTotal es
  | .isPressed _ _ :: es => soundTotal es
  | .waitKey _ :: es => soundTotal es
  | .randomByte _ :: es => soundTotal es
  | .fault _ :: es => soundTotal es

/-- How many of a list of events are `PlaySound` calls: one per completed instruction (R146). -/
def soundCalls : List Event → Nat
  | [] => 0
  | .playSound _ :: es => soundCalls es + 1
  | .tick _ :: es => soundCalls es
  | .render _ :: es => soundCalls es
  | .isPressed _ _ :: es => soundCalls es
  | .waitKey _ :: es => soundCalls es
  | .randomByte _ :: es => soundCalls es
  | .fault _ :: es => soundCalls es

/-- The grids a list of events hands to the video sink (R324). -/
def renders : List Event → List Grid
  | [] => []
  | .render g :: es => g :: renders es
  | .tick _ :: es => renders es
  | .isPressed _ _ :: es => renders es
  | .waitKey _ :: es => renders es
  | .randomByte _ :: es => renders es
  | .playSound _ :: es => renders es
  | .fault _ :: es => renders es

/-- The state's next execute phase is neither `LD DT, Vx` nor `LD ST, Vx`: the engine is not running, its fetch or its
decode fails, or it fetches another instruction. -/
def State.LeavesTimers (s : State) : Prop :=
  s.mode = .run → s.pc.toNat + 2 ≤ memSize → ∀ x,
    decode s.cfg.strictDecode (s.fetch s.pc.toNat) ≠ .known (.ldDT x) ∧
    decode s.cfg.strictDecode (s.fetch s.pc.toNat) ≠ .known (.ldST x)

/-- No instruction of the next `n` steps writes a timer. -/
def TimersUnwritten : Nat → State → Prop
  | 0, _ => True
  | n + 1, s => s.LeavesTimers ∧ ∀ t, step s = .next t → TimersUnwritten n t

/-- Whether a sprite of `n` row bytes drawn from a start cell puts a 1 bit on the cell `(tr, tc)`, in the words of R282:
some bit `7 - c` of some row `r` is 1 and has `(row0 + r) mod 32` and `(col0 + c) mod 64` as its target. -/
def SpriteCovers (col0 row0 n : Nat) (row : Nat → Byte) (tr tc : Nat) : Prop :=
  ∃ r c, r < n ∧ c < 8 ∧ (row r).getLsbD (7 - c) = true ∧ tr = (row0 + r) % screenH ∧ tc = (col0 + c) % screenW

/-- A change of state that ends the session with a fatal condition and does nothing else (R301 to R305): the mode holds
the report, the report is the one new event, and it shows the kind, its code, the name, the opcode, the extra detail and
the registers as they were. -/
def EndsSession (s t : State) (kind : FatalKind) (code : Nat) (name : String) (opcode : Option Word) (extra : Extra) :
    Prop :=
  ∃ r : Report, t.mode = .faulted r ∧ t.events = .fault r :: s.events ∧ ChangesOnly [.mode, .events] s t ∧
    r.kind = kind ∧ r.code = code ∧ r.name = name ∧ r.opcode = opcode ∧ r.extra = extra ∧
    r.v = s.v ∧ r.i = s.i ∧ r.pc = s.pc ∧ r.sp = s.sp

/-- When an instruction's own check fails: the whole list of R301 but for fetch and decode. -/
def FatalCondition (s : State) : Instr → Prop
  | .call _ => s.sp.val = 16
  | .ret _ => s.sp.val = 0
  | .skp x => (s.getV x).toNat > 15
  | .sknp x => (s.getV x).toNat > 15
  | .drw _ _ n => s.i.toNat + n.toNat > 4096
  | .ldB _ => s.i.toNat + 3 > 4096
  | .ldMemStore x => s.i.toNat + (x.toNat + 1) > 4096
  | .ldMemLoad x => s.i.toNat + (x.toNat + 1) > 4096
  | .cls _ | .jp _ | .seImm _ _ | .sneImm _ _ | .seReg _ _ _ | .sneReg _ _ _ | .ldImm _ _ | .addImm _ _ => False
  | .ldReg _ _ | .or _ _ | .and _ _ | .xor _ _ | .addReg _ _ | .sub _ _ | .shr _ _ | .subn _ _ | .shl _ _ => False
  | .ldI _ | .jpV0 _ | .rnd _ _ | .ldVxDT _ | .ldVxK _ | .ldDT _ | .ldST _ | .addI _ | .ldF _ => False

/-- The table of R44: the general registers an instruction writes, in a session of a dialect. -/
def MayWriteV (d : Dialect) (r : Nibble) : Instr → Prop
  | .ldImm x _ | .addImm x _ | .ldReg x _ | .rnd x _ | .ldVxDT x | .ldVxK x => r = x
  | .or x _ | .and x _ | .xor x _ => r = x ∨ (r = vf ∧ d = .classic)
  | .addReg x _ | .sub x _ | .subn x _ | .shr x _ | .shl x _ => r = x ∨ r = vf
  | .drw _ _ _ => r = vf
  | .ldMemLoad x => r.toNat ≤ x.toNat
  | .cls _ | .ret _ | .jp _ | .call _ | .seImm _ _ | .sneImm _ _ | .seReg _ _ _ | .sneReg _ _ _ | .ldI _ => False
  | .jpV0 _ | .skp _ | .sknp _ | .ldDT _ | .ldST _ | .addI _ | .ldF _ | .ldB _ | .ldMemStore _ => False

/-- The parts of the state an instruction's execute phase writes, with the mode and the event list where it may enter
the fault state (R44 to R48, R305; the rule of each instruction). -/
def partsWritten : Instr → List Part
  | .cls _ => [.pc, .video, .events]
  | .ret _ => [.pc, .sp, .mode, .events]
  | .call _ => [.pc, .sp, .stack, .mode, .events]
  | .jp _ | .jpV0 _ | .seImm _ _ | .sneImm _ _ | .seReg _ _ _ | .sneReg _ _ _ => [.pc]
  | .ldImm _ _ | .addImm _ _ | .ldReg _ _ | .or _ _ | .and _ _ | .xor _ _ | .addReg _ _ | .sub _ _ => [.v, .pc]
  | .shr _ _ | .subn _ _ | .shl _ _ | .ldVxDT _ => [.v, .pc]
  | .rnd _ _ => [.v, .pc, .events, .randomAnswers, .draws]
  | .ldI _ | .addI _ | .ldF _ => [.i, .pc]
  | .drw _ _ _ => [.v, .pc, .video, .mode, .events]
  | .skp _ | .sknp _ => [.pc, .mode, .events, .keyAnswers, .draws]
  | .ldVxK _ => [.mode]
  | .ldDT _ => [.dt, .pc]
  | .ldST _ => [.st, .pc]
  | .ldB _ => [.mem, .pc, .mode, .events]
  | .ldMemStore _ => [.mem, .i, .pc, .mode, .events]
  | .ldMemLoad _ => [.v, .i, .pc, .mode, .events]

end Sys2Proof.Machine
end

