-- ==== Sys2Proof/Certificates/Slice0/Obligations.lean ====
section
/-! DEFINITION. The statements for the provers. Numbers stand for the spec's numbers: 4096 bytes of memory, 16 registers,
64 × 32 pixels. A docstring names the rule a statement formalises; where it rests on a decision or an inference the spec
marks as its own, the docstring says so. -/

open Sys2Proof Sys2Proof.Machine

/-! ## The engine -/

/-- R130 to R134, R137: a step of a running engine runs the instruction that the two bytes at `PC` decode to, high byte
first (the spec's decision D1), and paces exactly when that instruction completes. -/
def Obligations.StepRunsDecodedInstruction : Prop :=
  ∀ (s : State) (i : Instr), s.mode = .run → s.pc.toNat + 2 ≤ 4096 →
    decode s.cfg.strictDecode (s.mem.read s.pc.toNat ++ s.mem.read (s.pc.toNat + 1)) = .known i →
    ∃ t, exec i s = .next t ∧ (t.mode = .run → step s = .next t.pace) ∧ (t.mode ≠ .run → step s = .next t)

/-- R132: an opcode that decodes to Unknown is fatal; the report holds it, and nothing else of the machine changes. -/
def Obligations.UnknownOpcodeIsFatal : Prop :=
  ∀ s : State, s.mode = .run → s.pc.toNat + 2 ≤ 4096 →
    decode s.cfg.strictDecode (s.fetch s.pc.toNat) = .unknown →
    ∃ t r, step s = .next t ∧ t.mode = .faulted r ∧ r.kind = .unknownOpcode ∧
      r.opcode = some (s.fetch s.pc.toNat) ∧ ChangesOnly [.mode, .events] s t

/-- R77, R302, R304 (the spec's decisions D3, D11, D12): a fetch whose second byte is outside memory ends the session,
with the name FETCH, no opcode, and `PC` and 2 as its detail; so does an Unknown opcode, with the name UNKNOWN. -/
def Obligations.FetchAndDecodeFaultReports : Prop :=
  ∀ s : State, s.mode = .run →
    (4096 < s.pc.toNat + 2 → ∃ t, step s = .next t ∧
      EndsSession s t .memoryOutOfBounds 4 "FETCH" none (.access s.pc.toNat 2)) ∧
    (s.pc.toNat + 2 ≤ 4096 → decode s.cfg.strictDecode (s.fetch s.pc.toNat) = .unknown → ∃ t, step s = .next t ∧
      EndsSession s t .unknownOpcode 1 "UNKNOWN" (some (s.fetch s.pc.toNat)) .none)

/-- R306: no number of steps leaves the fault state, which keeps its report: the session is over. That `supply_key` has no
next state from it is R326 (the spec's decision D23) as log entry 16 reads it; that a load has none is the model's
choice, log entry 12. -/
def Obligations.FaultedStateIsFinal : Prop :=
  ∀ (s : State) (r : Report), s.mode = .faulted r →
    (∀ n, Host.Core.run Sys2Proof.core n s = .next s) ∧ (∀ k t, supplyKey k s ≠ .next t) ∧
    (∀ bytes offset t, loadData bytes offset s ≠ .next t)

/-- R138, R314 (the spec's decision D14; log entry 10): while the host has no key pending, no number of steps changes a
waiting engine, its timers and its accumulator included. -/
def Obligations.WaitingEngineIsUnchanged : Prop :=
  ∀ (s : State) (x : Nibble), s.mode = .waitKey x → s.suppliedKeys = [] →
    ∀ n, Host.Core.run Sys2Proof.core n s = .next s

/-- R138, R263 (the spec's decision D14): `supply_key` completes the suspended `LD Vx, K`: the key goes to `V[x]`, `PC`
moves on, the engine runs, and the instruction is paced once. A step with a key pending is that call (log entry 10). -/
def Obligations.SupplyKeyCompletesTheWait : Prop :=
  ∀ (s : State) (x k : Nibble), s.mode = .waitKey x →
    (∃ u, supplyKey k.toNat s = .next u.pace ∧ (u.getV x).toNat = k.toNat ∧ OnlyV x s u ∧ Advanced 1 s u ∧
      u.mode = .run ∧ u.events = .waitKey k :: s.events ∧ ChangesOnly [.v, .pc, .mode, .events] s u) ∧
    (∀ ks, s.suppliedKeys = k :: ks → step s = supplyKey k.toNat { s with suppliedKeys := ks })

/-- R80, R326 (the spec's decision D23): host calls outside the contract are refused: a key above 15 in every mode (the
order of the two checks is the model's, log entry 16), any other key when the engine does not wait, a load beyond 4096;
the load after a fatal condition answers the fault of log entry 12, also its choice. -/
def Obligations.HostCallsOutsideContract : Prop :=
  ∀ s : State,
    ((∀ x, s.mode ≠ .waitKey x) → ∀ k, k < 16 → supplyKey k s = .refused .notWaiting) ∧
    (∀ k, 16 ≤ k → supplyKey k s = .refused (.keyOutsideContract k)) ∧
    (s.Alive → ∀ bytes offset, 4096 < offset + bytes.length →
      loadData bytes offset s = .refused (.loadOutOfBounds offset bytes.length)) ∧
    (∀ r, s.mode = .faulted r → ∀ bytes offset, loadData bytes offset s = .fault (.sessionOver r))

/-- R80 (the spec's decision D23): `load_data` inside its bound copies the bytes and changes nothing else. -/
def Obligations.LoadDataCopiesBytes : Prop :=
  ∀ (s : State) (bytes : List Byte) (offset : Nat), s.Alive → s.mem.wf = true → offset + bytes.length ≤ 4096 →
    ∃ t, loadData bytes offset s = .next t ∧
      (∀ (j : Nat) (h : j < bytes.length), t.mem.read (offset + j) = bytes[j]) ∧
      (∀ a, a < offset ∨ offset + bytes.length ≤ a → t.mem.read a = s.mem.read a) ∧
      ChangesOnly [.mem] s t

/-- R340, R53 (`acc` and `mode` are the spec's decisions D17 and D22): construction gives the reset table for every
configuration, State.reset is a construction, and the configuration stays fixed. -/
def Obligations.ConstructionIsTheResetTable : Prop :=
  (∀ c : SessionConfig, ∃ s, s = State.construct c ∧ s.cfg = c ∧ s.pc.toNat = 0x200 ∧ (∀ r, (s.getV r).toNat = 0) ∧
    s.i.toNat = 0 ∧ s.sp.val = 0 ∧ (∀ (k : Nat) (h : k < 16), (s.stack[k]).toNat = 0) ∧
    (∀ a, a < 4096 → (s.mem.read a).toNat = 0) ∧ s.dt.toNat = 0 ∧ s.st.toNat = 0 ∧
    (∀ r c, r < 32 → c < 64 → s.video.cell r c = false) ∧ s.acc = 0 ∧ s.mode = .run) ∧
  (∃ c, State.reset = State.construct c) ∧
  (∀ s t, step s = .next t → t.cfg = s.cfg)

/-- R343, R81 (disjointness is the spec's inference; the load bound is its decision D23): the conventional boot puts the
session's 80 bytes of font at 0 and the program at 0x200, leaves every other byte 0, and changes nothing but memory. -/
def Obligations.BootPlacesFontAndProgram : Prop :=
  ∀ (c : SessionConfig) (rom : List Byte), rom.length ≤ 3584 →
    ∃ s, boot c rom = .next s ∧
      (∀ (j : Nat) (h : j < 80), s.mem.read j = c.font[j]) ∧
      (∀ (j : Nat) (h : j < rom.length), s.mem.read (0x200 + j) = rom[j]) ∧
      (∀ a, 80 ≤ a → (a < 0x200 ∨ 0x200 + rom.length ≤ a) → s.mem.read a = 0) ∧
      ChangesOnly [.mem] (State.construct c) s

/-- R344, R111 (the spec's inference, and its decision D9): with nothing loaded the first step reads 0000, which is
Unknown, and ends the session. -/
def Obligations.FirstStepWithoutProgramFaults : Prop :=
  ∀ c : SessionConfig, ∃ t, step (State.construct c) = .next t ∧
    EndsSession (State.construct c) t .unknownOpcode 1 "UNKNOWN" (some 0x0000) .none

/-- The invariant holds at construction of every session with positive time parameters, State.reset among them. -/
def Obligations.ConstructionMeetsInvariant : Prop :=
  (∀ c : SessionConfig, c.Positive → (State.construct c).Inv) ∧ State.reset.Inv

/-- R39, R50, R161, R305 (D4, D5, D10, D16): every step from a state that meets the invariant gives one that meets it:
memory canonical and inside its space, `PC` and return addresses below 4096, the accumulator below a period, and a
report that fits its state. -/
def Obligations.StepKeepsInvariant : Prop :=
  ∀ s t : State, s.Inv → step s = .next t → t.Inv

/-- The host's operations keep the invariant as well (R80, R138). -/
def Obligations.HostOperationsKeepInvariant : Prop :=
  (∀ (s t : State) (k : Nat), s.Inv → supplyKey k s = .next t → t.Inv) ∧
  (∀ (s t : State) (bytes : List Byte) (offset : Nat), s.Inv → loadData bytes offset s = .next t → t.Inv)

/-- R107, R305 (D10): the machine never stops without a meaning: every step of every state answers a next state, a
fatal condition included. -/
def Obligations.EveryStepAnswersNext : Prop :=
  (∀ (i : Instr) (s : State), ∃ t, exec i s = .next t) ∧ (∀ s : State, ∃ t, step s = .next t)

/-- R139, R146 (D14, D27; log entry 10): a run of `run_count(N)` that ends with the engine running has completed exactly
N instructions, one `PlaySound` for each. Two moves an instruction are enough. -/
def Obligations.RunCountMeetsItsBudget : Prop :=
  ∀ (moves n : Nat) (s t : State), s.mode = .run → 2 * n ≤ moves → runCount moves n s = .next t → t.mode = .run →
    soundCalls t.events = soundCalls s.events + n

/-! ## The decoder -/

/-- Words written out from the encodings of R107 and R117, one of each family, decode to their instructions under both
settings of `STRICT_DECODE` (most patterns are the spec's general knowledge). -/
def Obligations.SpecWordsDecode : Prop :=
  ∀ strict : Bool,
    decode strict 0x00E0 = .known (.cls 0) ∧ decode strict 0x1200 = .known (.jp 0x200) ∧
    decode strict 0x6A02 = .known (.ldImm 0xA 0x02) ∧ decode strict 0xFA29 = .known (.ldF 0xA) ∧
    decode strict 0x812E = .known (.shl 1 2) ∧ decode strict 0xD015 = .known (.drw 0 1 5) ∧
    decode strict 0xE3A1 = .known (.sknp 3) ∧ decode strict 0xF10A = .known (.ldVxK 1) ∧
    decode strict 0xF265 = .known (.ldMemLoad 2) ∧ decode strict 0x8AB9 = .unknown

/-- R101, R107, R109: decoding the encoding of a well-formed instruction gives it back, with every operand at every
value (patterns: the spec's general knowledge; ignored bits: its decision D8). -/
def Obligations.DecodeOfEncode : Prop :=
  ∀ (strict : Bool) (i : Instr), i.WellFormed strict → decode strict (encode i) = .known i

/-- R101, R107, R109: an opcode that decodes is the encoding of what it decodes to, which is well formed for the
setting (D8). So no bit of an opcode is lost. -/
def Obligations.EncodeOfDecode : Prop :=
  ∀ (strict : Bool) (w : Word) (i : Instr), decode strict w = .known i → encode i = w ∧ i.WellFormed strict

/-- R112 (the spec's inference; D8, D9): exactly which opcodes are Unknown, by arithmetic on the opcode. -/
def Obligations.UnknownOpcodeSpace : Prop :=
  ∀ (strict : Bool) (w : Word), decode strict w = .unknown ↔
    (w.toNat / 4096 = 0 ∧ w.toNat % 256 ≠ 0xE0 ∧ w.toNat % 256 ≠ 0xEE) ∨
    (w.toNat / 4096 = 8 ∧ 8 ≤ w.toNat % 16 ∧ w.toNat % 16 ≠ 0xE) ∨
    (w.toNat / 4096 = 0xE ∧ w.toNat % 256 ≠ 0x9E ∧ w.toNat % 256 ≠ 0xA1) ∨
    (w.toNat / 4096 = 0xF ∧ w.toNat % 256 ∉ [0x07, 0x0A, 0x15, 0x18, 0x1E, 0x29, 0x33, 0x55, 0x65]) ∨
    (strict = true ∧ w.toNat / 4096 = 0 ∧ w.toNat / 256 % 16 ≠ 0) ∨
    (strict = true ∧ (w.toNat / 4096 = 5 ∨ w.toNat / 4096 = 9) ∧ w.toNat % 16 ≠ 0)

/-- R118 (the spec's inference): the decoder and the machine-readable table say the same, and no opcode selects two
rows, under either setting. -/
def Obligations.DecoderAgreesWithTable : Prop :=
  ∀ (strict : Bool) (w : Word),
    (∀ i, decode strict w = .known i → ∃ row ∈ opcodeTable, row.Selects strict w ∧ row.mnemonic = i.mnemonic) ∧
    (decode strict w = .unknown → ∀ row ∈ opcodeTable, ¬ row.Selects strict w) ∧
    (∀ row ∈ opcodeTable, ∀ row' ∈ opcodeTable, row.Selects strict w → row'.Selects strict w → row = row')

/-! ## Register loads and the ALU -/

/-- R192: `LD Vx, byte`, `6xkk`, writes the immediate to `V[x]`, VF like any other, and nothing else but `PC`. -/
def Obligations.LoadImmediate : Prop :=
  ∀ (strict : Bool) (s : State) (x : Nibble) (kk : Byte),
    decode strict (0x6#4 ++ x ++ kk) = .known (.ldImm x kk) ∧
    ∃ t, exec (.ldImm x kk) s = .next t ∧ t.getV x = kk ∧ OnlyV x s t ∧ Advanced 1 s t ∧ ChangesOnly [.v, .pc] s t

/-- R193, R194 (both from the spec's general knowledge): `ADD Vx, byte` adds modulo 256 and sets no flag; `LD Vx, Vy`
copies. -/
def Obligations.AddImmediateAndCopy : Prop :=
  ∀ (s : State) (x y : Nibble) (kk : Byte),
    (∃ t, exec (.addImm x kk) s = .next t ∧ (t.getV x).toNat = ((s.getV x).toNat + kk.toNat) % 256 ∧ OnlyV x s t ∧
      Advanced 1 s t ∧ ChangesOnly [.v, .pc] s t) ∧
    (∃ t, exec (.ldReg x y) s = .next t ∧ t.getV x = s.getV y ∧ OnlyV x s t ∧ Advanced 1 s t ∧
      ChangesOnly [.v, .pc] s t)

/-- R191: unsigned results modulo 256; addition sets VF to the carry, subtraction to no borrow; a shift moves by one bit
and VF gets the bit moved out; none traps. Where the destination is VF, both values of `VF_ORDER` are covered. -/
def Obligations.ArithmeticLaws : Prop :=
  ∀ (s : State) (x y : Nibble) (a b src : Nat), a = (s.getV x).toNat → b = (s.getV y).toNat →
    src = (if s.cfg.shiftUsesVy then b else a) →
    (∃ t, exec (.addReg x y) s = .next t ∧ Advanced 1 s t ∧ ChangesOnly [.v, .pc] s t ∧
      WroteRF s t x (BitVec.ofNat 8 ((a + b) % 256)) (if 255 < a + b then 1 else 0)) ∧
    (∃ t, exec (.sub x y) s = .next t ∧ Advanced 1 s t ∧ ChangesOnly [.v, .pc] s t ∧
      WroteRF s t x (BitVec.ofNat 8 ((a + 256 - b) % 256)) (if b ≤ a then 1 else 0)) ∧
    (∃ t, exec (.subn x y) s = .next t ∧ Advanced 1 s t ∧ ChangesOnly [.v, .pc] s t ∧
      WroteRF s t x (BitVec.ofNat 8 ((b + 256 - a) % 256)) (if a ≤ b then 1 else 0)) ∧
    (∃ t, exec (.shr x y) s = .next t ∧ Advanced 1 s t ∧ ChangesOnly [.v, .pc] s t ∧
      WroteRF s t x (BitVec.ofNat 8 (src / 2)) (BitVec.ofNat 8 (src % 2))) ∧
    (∃ t, exec (.shl x y) s = .next t ∧ Advanced 1 s t ∧ ChangesOnly [.v, .pc] s t ∧
      WroteRF s t x (BitVec.ofNat 8 (src * 2 % 256)) (BitVec.ofNat 8 (src / 128)))

/-- R195 to R197, R190 (patterns: the spec's general knowledge; the order for VF is its open parameter D7): `OR`, `AND`,
`XOR`, with VF ← 0 in Classic and VF untouched otherwise. -/
def Obligations.BitwiseWithVfReset : Prop :=
  ∀ (s : State) (i : Instr) (x y : Nibble) (result : Byte),
    (i = .or x y ∧ result = s.getV x ||| s.getV y ∨ i = .and x y ∧ result = s.getV x &&& s.getV y ∨
      i = .xor x y ∧ result = s.getV x ^^^ s.getV y) →
    ∃ t, exec i s = .next t ∧ Advanced 1 s t ∧ ChangesOnly [.v, .pc] s t ∧
      (s.Classic → WroteRF s t x result 0) ∧ (¬ s.Classic → t.getV x = result ∧ OnlyV x s t)

/-- R203, R322 (the answer is the spec's free draw D26; log entry 9): `RND Vx, byte` writes the answer masked; the
answer is one event, and where the host has placed one it is that one. -/
def Obligations.RandomByteMasked : Prop :=
  ∀ (s : State) (x : Nibble) (kk : Byte), ∃ t r, exec (.rnd x kk) s = .next t ∧ t.getV x = r &&& kk ∧
    t.events = .randomByte r :: s.events ∧ OnlyV x s t ∧ Advanced 1 s t ∧
    ChangesOnly [.v, .pc, .events, .randomAnswers, .draws] s t ∧
    (∀ r' rest, s.randomAnswers = r' :: rest → r = r' ∧ t.randomAnswers = rest ∧ t.draws = s.draws)

/-! ## Control transfer -/

/-- The execute phase of R163: `JP addr`, `1nnn`, sets `PC` to `nnn` and changes nothing else; it never faults. That each
jump is then paced is `StepRunsDecodedInstruction` with `PaceInClosedForm`; that the fetch after `nnn = 0xFFF` fails is
`FetchAndDecodeFaultReports`. -/
def Obligations.JumpAbsolute : Prop :=
  ∀ (strict : Bool) (s : State) (nnn : Addr),
    decode strict (0x1#4 ++ nnn) = .known (.jp nnn) ∧
    ∃ t, exec (.jp nnn) s = .next t ∧ t.pc.toNat = nnn.toNat ∧ ChangesOnly [.pc] s t

/-- R164 (reduction: the spec's decision D4; the register: its free parameter D21): `JP V0, addr` adds `V[0]`, or `V[x]`
with `x` the top nibble of the address, modulo 4096. -/
def Obligations.JumpPlusRegister : Prop :=
  ∀ (s : State) (x : Nibble) (low : Byte), ∃ t, exec (.jpV0 (x ++ low)) s = .next t ∧
    t.pc.toNat = (x.toNat * 256 + low.toNat + (s.getV (if s.cfg.jumpUsesVx then x else 0)).toNat) % 4096 ∧
    ChangesOnly [.pc] s t

/-- R160, R161 (what is pushed: the spec's decision D5): `CALL` pushes the address after itself modulo 4096 and jumps;
at depth 16 it ends the session. -/
def Obligations.CallPushesAndJumps : Prop :=
  ∀ (s : State) (nnn : Addr),
    (∀ h : s.sp.val < 16, ∃ t, exec (.call nnn) s = .next t ∧ t.pc.toNat = nnn.toNat ∧ t.sp.val = s.sp.val + 1 ∧
      (t.stack[s.sp.val]).toNat = (s.pc.toNat + 2) % 4096 ∧
      (∀ (k : Nat) (hk : k < 16), k ≠ s.sp.val → t.stack[k] = s.stack[k]) ∧ ChangesOnly [.pc, .sp, .stack] s t) ∧
    (s.sp.val = 16 → ∃ t, exec (.call nnn) s = .next t ∧
      EndsSession s t .stackOverflow 2 "CALL" (some (0x2#4 ++ nnn)) .none)

/-- R162, R47 (no advance after the target: the spec's decision D5): `RET` jumps to the top entry, modulo 4096, and
lowers the depth, keeping the entry; at depth 0 it ends the session. -/
def Obligations.ReturnPopsAndJumps : Prop :=
  ∀ (s : State) (z : Nibble),
    (∀ h : s.sp.val ≠ 0, ∃ t, exec (.ret z) s = .next t ∧ t.sp.val = s.sp.val - 1 ∧
      t.pc.toNat = (s.stack[s.sp.val - 1]).toNat % 4096 ∧ ChangesOnly [.pc, .sp] s t) ∧
    (s.sp.val = 0 → ∃ t, exec (.ret z) s = .next t ∧
      EndsSession s t .stackUnderflow 3 "RET" (some (0x0#4 ++ z ++ 0xEE#8)) .none)

/-- R161 (the spec's decision D5; the source's own stack round trip): a `RET` right after a `CALL` comes back to the
instruction after the `CALL`, at the same depth, with every older entry as it was. -/
def Obligations.CallThenReturn : Prop :=
  ∀ (s : State) (nnn : Addr) (z : Nibble), s.sp.val < 16 →
    ∃ t u, exec (.call nnn) s = .next t ∧ exec (.ret z) t = .next u ∧ Advanced 1 s u ∧ u.sp = s.sp ∧
      (∀ (k : Nat) (hk : k < 16), k < s.sp.val → u.stack[k] = s.stack[k]) ∧ ChangesOnly [.pc, .stack] s u

/-- R165 to R168, R134 (these four are the spec's general knowledge): a skip moves `PC` by 4 when its condition holds,
else by 2, and changes nothing else, ignored bits or not. -/
def Obligations.SkipsOnValues : Prop :=
  ∀ (s : State) (x y z : Nibble) (kk : Byte),
    (∃ t, exec (.seImm x kk) s = .next t ∧ Advanced (if s.getV x = kk then 2 else 1) s t ∧ ChangesOnly [.pc] s t) ∧
    (∃ t, exec (.sneImm x kk) s = .next t ∧ Advanced (if s.getV x = kk then 1 else 2) s t ∧ ChangesOnly [.pc] s t) ∧
    (∃ t, exec (.seReg x y z) s = .next t ∧ Advanced (if s.getV x = s.getV y then 2 else 1) s t ∧
      ChangesOnly [.pc] s t) ∧
    (∃ t, exec (.sneReg x y z) s = .next t ∧ Advanced (if s.getV x = s.getV y then 1 else 2) s t ∧
      ChangesOnly [.pc] s t)

/-- R169, R170, R320, R301, R304 (the fault: the spec's decision D13; its report: D11, D12; the answer: its free draw
D26; log entry 9): `SKP` and `SKNP` ask for the key in `V[x]` once, skip on the answer, and keep the random answers and
the pending keys; a value above 15 ends the session unasked. -/
def Obligations.SkipsOnKeys : Prop :=
  ∀ (s : State) (x : Nibble),
    ((s.getV x).toNat ≤ 15 → ∃ (t u : State) (k : Nibble) (b : Bool), k.toNat = (s.getV x).toNat ∧
      exec (.skp x) s = .next t ∧ exec (.sknp x) s = .next u ∧
      Advanced (if b then 2 else 1) s t ∧ Advanced (if b then 1 else 2) s u ∧
      t.events = .isPressed k b :: s.events ∧ u.events = .isPressed k b :: s.events ∧
      ChangesOnly [.pc, .events, .keyAnswers, .draws] s t ∧ ChangesOnly [.pc, .events, .keyAnswers, .draws] s u ∧
      t.randomAnswers = s.randomAnswers ∧ t.suppliedKeys = s.suppliedKeys ∧
      u.randomAnswers = s.randomAnswers ∧ u.suppliedKeys = s.suppliedKeys ∧
      (∀ b' rest, s.keyAnswers = b' :: rest →
        b = b' ∧ t.keyAnswers = rest ∧ t.draws = s.draws ∧ u.keyAnswers = rest ∧ u.draws = s.draws) ∧
      (s.keyAnswers = [] → t.keyAnswers = [] ∧ u.keyAnswers = [])) ∧
    (15 < (s.getV x).toNat → ∃ t u, exec (.skp x) s = .next t ∧ exec (.sknp x) s = .next u ∧
      EndsSession s t .keyOutOfRange 5 "SKP" (some (0xE#4 ++ x ++ 0x9E#8)) (.value (s.getV x)) ∧
      EndsSession s u .keyOutOfRange 5 "SKNP" (some (0xE#4 ++ x ++ 0xA1#8)) (.value (s.getV x)))

/-! ## Index register and memory -/

/-- R230 to R232 (`LD I` and `ADD I` are the spec's general knowledge, no flag its decision D20, the digit above 15 its
open parameter D15): the three instructions that compute `I`. -/
def Obligations.IndexArithmetic : Prop :=
  ∀ (s : State) (x : Nibble) (nnn : Addr),
    (∃ t, exec (.ldI nnn) s = .next t ∧ t.i.toNat = nnn.toNat ∧ Advanced 1 s t ∧ ChangesOnly [.i, .pc] s t) ∧
    (∃ t, exec (.addI x) s = .next t ∧ t.i.toNat = (s.i.toNat + (s.getV x).toNat) % 65536 ∧ Advanced 1 s t ∧
      ChangesOnly [.i, .pc] s t) ∧
    (∃ t, exec (.ldF x) s = .next t ∧ Advanced 1 s t ∧ ChangesOnly [.i, .pc] s t ∧
      (s.cfg.fontIndex = .unmasked ∨ (s.getV x).toNat ≤ 15 → t.i.toNat = 5 * (s.getV x).toNat) ∧
      (s.cfg.fontIndex = .lowNibble → t.i.toNat = 5 * ((s.getV x).toNat % 16)))

/-- R233 (the fault: the spec's decision D10): `LD B, Vx` stores hundreds, tens and units at `I`, `I+1`, `I+2` and
nowhere else; out of range it ends the session with nothing stored. -/
def Obligations.DecimalStore : Prop :=
  ∀ (s : State) (x : Nibble),
    (s.i.toNat + 3 ≤ 4096 → ∃ t, exec (.ldB x) s = .next t ∧ Advanced 1 s t ∧ ChangesOnly [.mem, .pc] s t ∧
      (∀ a, a < s.i.toNat ∨ s.i.toNat + 3 ≤ a → t.mem.read a = s.mem.read a) ∧
      (s.mem.wf = true → (t.mem.read s.i.toNat).toNat = (s.getV x).toNat / 100 ∧
        (t.mem.read (s.i.toNat + 1)).toNat = (s.getV x).toNat / 10 % 10 ∧
        (t.mem.read (s.i.toNat + 2)).toNat = (s.getV x).toNat % 10)) ∧
    (4096 < s.i.toNat + 3 → ∃ t, exec (.ldB x) s = .next t ∧
      EndsSession s t .memoryOutOfBounds 4 "LD_B" (some (0xF#4 ++ x ++ 0x33#8)) (.access s.i.toNat 3))

/-- R234 (pattern: the spec's general knowledge; the check: its decision D10): `LD [I], Vx` stores `V[0]` to `V[x]` from
`I` on and nowhere else, and moves `I` on in Classic only; out of range it ends the session with nothing stored. -/
def Obligations.BlockStore : Prop :=
  ∀ (s : State) (x : Nibble),
    (s.i.toNat + (x.toNat + 1) ≤ 4096 → ∃ t, exec (.ldMemStore x) s = .next t ∧ Advanced 1 s t ∧
      ChangesOnly [.mem, .i, .pc] s t ∧
      (∀ a, a < s.i.toNat ∨ s.i.toNat + x.toNat < a → t.mem.read a = s.mem.read a) ∧
      (s.mem.wf = true → ∀ r : Nibble, r.toNat ≤ x.toNat → t.mem.read (s.i.toNat + r.toNat) = s.getV r) ∧
      (s.Classic → t.i.toNat = (s.i.toNat + x.toNat + 1) % 65536) ∧ (¬ s.Classic → t.i = s.i)) ∧
    (4096 < s.i.toNat + (x.toNat + 1) → ∃ t, exec (.ldMemStore x) s = .next t ∧
      EndsSession s t .memoryOutOfBounds 4 "LD_mem_store" (some (0xF#4 ++ x ++ 0x55#8))
        (.access s.i.toNat (x.toNat + 1)))

/-- R235 (pattern: the spec's general knowledge; the check: its decision D10): `LD Vx, [I]` loads `V[0]` to `V[x]` from
`I` on and no other register, and moves `I` on in Classic only; out of range it ends the session. -/
def Obligations.BlockLoad : Prop :=
  ∀ (s : State) (x : Nibble),
    (s.i.toNat + (x.toNat + 1) ≤ 4096 → ∃ t, exec (.ldMemLoad x) s = .next t ∧ Advanced 1 s t ∧
      ChangesOnly [.v, .i, .pc] s t ∧
      (∀ r : Nibble, r.toNat ≤ x.toNat → t.getV r = s.mem.read (s.i.toNat + r.toNat)) ∧
      (∀ r : Nibble, x.toNat < r.toNat → t.getV r = s.getV r) ∧
      (s.Classic → t.i.toNat = (s.i.toNat + x.toNat + 1) % 65536) ∧ (¬ s.Classic → t.i = s.i)) ∧
    (4096 < s.i.toNat + (x.toNat + 1) → ∃ t, exec (.ldMemLoad x) s = .next t ∧
      EndsSession s t .memoryOutOfBounds 4 "LD_mem_load" (some (0xF#4 ++ x ++ 0x65#8))
        (.access s.i.toNat (x.toNat + 1)))

/-- R84, R348 (the spec's inference; byte order D1): the very next fetch sees a store to the bytes of the next
instruction. -/
def Obligations.NextFetchSeesTheStore : Prop :=
  ∀ (s t : State) (x : Nibble), s.mem.wf = true → 1 ≤ x.toNat → s.i.toNat = s.pc.toNat + 2 →
    s.i.toNat + (x.toNat + 1) ≤ 4096 → exec (.ldMemStore x) s = .next t →
    t.fetch t.pc.toNat = s.getV 0 ++ s.getV 1

/-! ## Timers, pacer and key wait -/

/-- R260 to R262 (all three are the spec's general knowledge): the timer reads and writes of the execute phase. -/
def Obligations.TimerInstructions : Prop :=
  ∀ (s : State) (x : Nibble),
    (∃ t, exec (.ldVxDT x) s = .next t ∧ t.getV x = s.dt ∧ OnlyV x s t ∧ Advanced 1 s t ∧
      ChangesOnly [.v, .pc] s t) ∧
    (∃ t, exec (.ldDT x) s = .next t ∧ t.dt = s.getV x ∧ Advanced 1 s t ∧ ChangesOnly [.dt, .pc] s t) ∧
    (∃ t, exec (.ldST x) s = .next t ∧ t.st = s.getV x ∧ Advanced 1 s t ∧ ChangesOnly [.st, .pc] s t)

/-- R143, R138, R305 (the count of periods and the pacer's place after the writes are the spec's inferences; the key wait:
its decision D14): each crossed period lowers both timers by 1, clamped at 0. Nothing else changes a timer but `LD DT`
and `LD ST`: not another execute phase, a step that faults, suspends or finds the engine not running, `supply_key`
before its pacing, or `load_data`. -/
def Obligations.TimersCountDownPerPeriod : Prop :=
  (∀ s : State, s.cfg.Positive →
    s.pace.dt.toNat = s.dt.toNat - (s.acc + s.cfg.instrTime) / s.cfg.timerPeriod ∧
    s.pace.st.toNat = s.st.toNat - (s.acc + s.cfg.instrTime) / s.cfg.timerPeriod) ∧
  (∀ (i : Instr) (s t : State), exec i s = .next t →
    (t.dt = s.dt ∨ ∃ x, i = .ldDT x) ∧ (t.st = s.st ∨ ∃ x, i = .ldST x)) ∧
  (∀ (i : Instr) (s t : State), s.mode = .run → s.pc.toNat + 2 ≤ 4096 →
    decode s.cfg.strictDecode (s.fetch s.pc.toNat) = .known i → exec i s = .next t → t.mode = .run →
    step s = .next t.pace) ∧
  (∀ s t : State, step s = .next t → t.mode ≠ .run → t.dt = s.dt ∧ t.st = s.st) ∧
  (∀ (s t : State) (x : Nibble), s.mode = .waitKey x → step s = .next t →
    t = s ∨ ∃ k ks, s.suppliedKeys = k :: ks ∧ supplyKey k.toNat { s with suppliedKeys := ks } = .next t) ∧
  (∀ (s t : State) (k : Nat), supplyKey k s = .next t →
    ∃ u : State, t = u.pace ∧ u.dt = s.dt ∧ u.st = s.st ∧ u.acc = s.acc ∧ u.cfg = s.cfg) ∧
  (∀ (s t : State) (bytes : List Byte) (offset : Nat), loadData bytes offset s = .next t → t.dt = s.dt ∧ t.st = s.st)

/-- R141, R142, R144 to R147 (when a period counts as sound: the spec's decision D17): what one `pace()` does, in closed
form: the periods crossed, the accumulator left, one `Tick` for each, and one `PlaySound`. -/
def Obligations.PaceInClosedForm : Prop :=
  ∀ (s : State) (k : Nat), s.cfg.Positive → k = (s.acc + s.cfg.instrTime) / s.cfg.timerPeriod →
    s.pace.acc = (s.acc + s.cfg.instrTime) % s.cfg.timerPeriod ∧
    s.pace.events = .playSound (s.cfg.timerPeriod * min k s.st.toNat) ::
      (List.replicate k (.tick s.cfg.timerPeriod) ++ s.events) ∧
    ChangesOnly [.acc, .dt, .st, .events] s s.pace

/-- R148 (the spec's inference; D17): over m pacings the periods crossed, the timers, the `Tick` calls and the total
sound time. -/
def Obligations.PacerLawsOverManyPacings : Prop :=
  ∀ (s : State) (m p : Nat), s.cfg.Positive → p = (s.acc + m * s.cfg.instrTime) / s.cfg.timerPeriod →
    s.acc < s.cfg.timerPeriod →
    (State.pace^[m] s).acc = (s.acc + m * s.cfg.instrTime) % s.cfg.timerPeriod ∧
    (State.pace^[m] s).dt.toNat = s.dt.toNat - p ∧ (State.pace^[m] s).st.toNat = s.st.toNat - p ∧
    tickCount (State.pace^[m] s).events = tickCount s.events + p ∧
    soundTotal (State.pace^[m] s).events = soundTotal s.events + s.cfg.timerPeriod * min p s.st.toNat ∧
    soundCalls (State.pace^[m] s).events = soundCalls s.events + m

/-- R148, R146 (the spec's inference; D17): over any run of n steps, whatever they execute, waits and a fatal end included:
with m instructions completed (one `PlaySound` each), the accumulator and the `Tick` calls are those of m instructions;
and where no instruction of the run writes a timer, so are both timers and the total sound time. -/
def Obligations.PacerLawsOverEveryRun : Prop :=
  ∀ (s t : State) (n m p : Nat), s.cfg.Positive → s.acc < s.cfg.timerPeriod →
    Host.Core.run Sys2Proof.core n s = .next t → soundCalls t.events = soundCalls s.events + m →
    p = (s.acc + m * s.cfg.instrTime) / s.cfg.timerPeriod →
    t.acc = (s.acc + m * s.cfg.instrTime) % s.cfg.timerPeriod ∧ tickCount t.events = tickCount s.events + p ∧
    (TimersUnwritten n s → t.dt.toNat = s.dt.toNat - p ∧ t.st.toNat = s.st.toNat - p ∧
      soundTotal t.events = soundTotal s.events + s.cfg.timerPeriod * min p s.st.toNat)

/-- R137, R263 (the suspension form: the spec's decision D14): `LD Vx, K` makes the engine wait and changes nothing
else, and the step that executes it does not pace. -/
def Obligations.KeyWaitSuspends : Prop :=
  ∀ (s : State) (x : Nibble), ∃ t, exec (.ldVxK x) s = .next t ∧ t.mode = .waitKey x ∧ ChangesOnly [.mode] s t ∧
    (s.mode = .run → s.pc.toNat + 2 ≤ 4096 → decode s.cfg.strictDecode (s.fetch s.pc.toNat) = .known (.ldVxK x) →
      step s = .next t)

/-- R137, R314 (D14): a step enters a key wait only by fetching `LD Vx, K`. -/
def Obligations.OnlyKeyWaitSuspends : Prop :=
  ∀ (s t : State) (x : Nibble), s.mode = .run → step s = .next t → t.mode = .waitKey x →
    decode s.cfg.strictDecode (s.fetch s.pc.toNat) = .known (.ldVxK x)

/-! ## Display -/

/-- R280 (any ignored bits unless strict: the spec's decision D8): `CLS`, `00E0`, clears every cell and calls `Render`
once with the cleared grid; VF is not written. -/
def Obligations.ClearScreen : Prop :=
  ∀ (s : State) (z : Nibble),
    decode true 0x00E0 = .known (.cls 0) ∧ decode false (0x0#4 ++ z ++ 0xE0#8) = .known (.cls z) ∧
    ∃ t, exec (.cls z) s = .next t ∧ (∀ r c, r < 32 → c < 64 → t.video.cell r c = false) ∧
      t.events = .render t.video :: s.events ∧ t.getV 15 = s.getV 15 ∧ Advanced 1 s t ∧
      ChangesOnly [.pc, .video, .events] s t

/-- R281 to R286 (pattern and bit order: the spec's general knowledge and decision D19; no rows: D18; the check: D10):
`DRW` toggles exactly the covered cells, wrapped; VF tells whether a covered cell was true; `Render` is called once; out
of range it ends the session. -/
def Obligations.DrawSprite : Prop :=
  ∀ (s : State) (x y n : Nibble) (covers : Nat → Nat → Prop),
    covers = SpriteCovers ((s.getV x).toNat % 64) ((s.getV y).toNat % 32) n.toNat
      (fun r => s.mem.read (s.i.toNat + r)) →
    (s.i.toNat + n.toNat ≤ 4096 → ∃ t, exec (.drw x y n) s = .next t ∧
      (∀ r c, r < 32 → c < 64 → (covers r c → t.video.cell r c = !s.video.cell r c) ∧
        (¬ covers r c → t.video.cell r c = s.video.cell r c)) ∧
      ((∃ r c, covers r c ∧ s.video.cell r c = true) → t.getV 15 = 1) ∧
      ((¬ ∃ r c, covers r c ∧ s.video.cell r c = true) → t.getV 15 = 0) ∧
      OnlyV 15 s t ∧ t.events = .render t.video :: s.events ∧ Advanced 1 s t ∧
      ChangesOnly [.v, .pc, .video, .events] s t) ∧
    (4096 < s.i.toNat + n.toNat → ∃ t, exec (.drw x y n) s = .next t ∧
      EndsSession s t .memoryOutOfBounds 4 "DRW" (some (0xD#4 ++ x ++ y ++ n)) (.access s.i.toNat n.toNat))

/-- R287 (the spec's inference, read with log entry 13): a sprite drawn twice at one place restores every cell, and the
second draw reports a collision exactly when some covered cell was clear before the first. The place is one place when
neither coordinate register is VF, which the first draw writes; with VF as one the second draw is `DrawSprite` at the
place the new VF names. -/
def Obligations.DrawTwiceRestores : Prop :=
  ∀ (s : State) (x y n : Nibble), x ≠ 15 → y ≠ 15 → s.i.toNat + n.toNat ≤ 4096 →
    ∃ t u, exec (.drw x y n) s = .next t ∧ exec (.drw x y n) t = .next u ∧
      (∀ r c, r < 32 → c < 64 → u.video.cell r c = s.video.cell r c) ∧
      (u.getV 15 = 1 ↔ ∃ r c, SpriteCovers ((s.getV x).toNat % 64) ((s.getV y).toNat % 32) n.toNat
        (fun j => s.mem.read (s.i.toNat + j)) r c ∧ s.video.cell r c = false)

/-- R285: `Render` is called with the updated grid after `CLS` and after every `DRW` that completes, and by no other
instruction. -/
def Obligations.RenderOnlyByDisplay : Prop :=
  ∀ (i : Instr) (s t : State), s.mode = .run → exec i s = .next t →
    ((∃ z, i = .cls z) ∨ (∃ x y n, i = .drw x y n) ∧ t.mode = .run → renders t.events = t.video :: renders s.events) ∧
    ((∀ z, i ≠ .cls z) ∧ (∀ x y n, i ≠ .drw x y n) → renders t.events = renders s.events)

/-! ## Whole-machine rules -/

/-- R44: which instructions write which general registers; no other instruction writes one. `LD Vx, K` writes when its
key is supplied. -/
def Obligations.GeneralRegisterWriters : Prop :=
  (∀ (i : Instr) (s t : State) (r : Nibble), exec i s = .next t → t.getV r ≠ s.getV r → MayWriteV s.cfg.dialect r i) ∧
  (∀ (s t : State) (k : Nat) (r : Nibble), supplyKey k s = .next t → t.getV r ≠ s.getV r → s.mode = .waitKey r)

/-- R36, R45 to R48, R50 and each instruction's rule (with D10 for the fault entry): what no instruction's execute phase
changes; every part not listed for the instruction is as before, memory byte by byte. -/
def Obligations.FrameOfEveryInstruction : Prop :=
  ∀ (i : Instr) (s t : State), exec i s = .next t → ChangesOnly (partsWritten i) s t

/-- R301, R303 (D10, D13; C6): an instruction ends the session exactly on its own fatal condition, and no other
instruction or condition is fatal. -/
def Obligations.FatalConditionsExactly : Prop :=
  ∀ (i : Instr) (s t : State), s.Alive → exec i s = .next t → ((∃ r, t.mode = .faulted r) ↔ FatalCondition s i)

/-- R305, R304 (D10, D11): an instruction that ends the session writes nothing else, whatever it is: no register, memory,
stack, video or timer, no `PC`, no collaborator call; its report names it, shows its opcode and the registers. -/
def Obligations.FatalInstructionWritesNothing : Prop :=
  ∀ (i : Instr) (s t : State) (r : Report), s.Alive → exec i s = .next t → t.mode = .faulted r →
    EndsSession s t r.kind r.code i.mnemonic (some (encode i)) r.extra

/-- R135 (D30): the execute phase makes at most one entry in the event list, before anything the pacer adds. -/
def Obligations.OneCallPerExecutePhase : Prop :=
  ∀ (i : Instr) (s t : State), exec i s = .next t → t.events = s.events ∨ ∃ e, t.events = e :: s.events

/-- R46, R50: no instruction reads `ST` or the accumulator: changing them before an execute phase changes nothing after
it but themselves. -/
def Obligations.ExecIgnoresSoundTimerAndAccumulator : Prop :=
  ∀ (i : Instr) (s t : State) (st : Byte) (acc : Nat), exec i s = .next t →
    ∃ st', exec i { s with st := st, acc := acc } = .next { t with st := st', acc := acc }
end

