-- ==== Sys2Proof/Laws/Blit.lean ====
section
/-! SUPPORT. The grid and one sprite bit (R282). -/

namespace Sys2Proof.Machine

/-- A write of a cell changes that cell alone; coordinates count modulo the screen. -/
theorem cell_setCell (g : Grid) (r c r' c' : Nat) (b : Bool) :
    (g.setCell r c b).cell r' c' =
      if r' % screenH = r % screenH ∧ c' % screenW = c % screenW then b else g.cell r' c' := by
  simp only [Grid.setCell, Grid.cell, Vector.getElem_set]
  by_cases hr : r % screenH = r' % screenH
  · simp only [hr, if_true, Vector.getElem_set]
    by_cases hc : c % screenW = c' % screenW
    · simp [hc]
    · simp [hc, Ne.symm hc]
  · simp [hr, Ne.symm hr]

@[simp] theorem cell_clear (r c : Nat) : Grid.clear.cell r c = false := by
  simp [Grid.clear, Grid.cell]

/-- All that one sprite bit does: the target cell is XORed, every other cell kept, and a 1 bit on a true cell hits. -/
theorem blitBit_cell (b : BlitState) (r c r' c' : Nat) (bit : Bool) :
    (blitBit b r c bit).grid.cell r' c' =
      if r' % screenH = r % screenH ∧ c' % screenW = c % screenW then (b.grid.cell r' c' ^^ bit) else b.grid.cell r' c' := by
  have key : ∀ r₁ c₁ : Nat, r₁ % screenH = r % screenH → c₁ % screenW = c % screenW →
      b.grid.cell r₁ c₁ = b.grid.cell r c := by
    intro r₁ c₁ h1 h2
    simp only [Grid.cell, h1, h2]
  cases bit
  · simp [blitBit]
  · simp only [blitBit, if_true, cell_setCell]
    split
    · rename_i h
      rw [key r' c' h.1 h.2]
      simp
    · rfl

theorem blitBit_hit (b : BlitState) (r c : Nat) (bit : Bool) :
    (blitBit b r c bit).hit = (b.hit || (bit && b.grid.cell r c)) := by
  cases bit <;> simp [blitBit]

end Sys2Proof.Machine
end

