-- ==== Sys2Proof/Laws/State.lean ====
section
/-! SUPPORT. One lemma per field per update of the state, true by rfl, so that no proof unfolds a record update. -/

namespace Sys2Proof.Machine

variable (s : State)

/-! ## setV -/

@[simp] theorem State.setV_cfg (r : Nibble) (b : Byte) : (s.setV r b).cfg = s.cfg := rfl
@[simp] theorem State.setV_pc (r : Nibble) (b : Byte) : (s.setV r b).pc = s.pc := rfl
@[simp] theorem State.setV_i (r : Nibble) (b : Byte) : (s.setV r b).i = s.i := rfl
@[simp] theorem State.setV_sp (r : Nibble) (b : Byte) : (s.setV r b).sp = s.sp := rfl
@[simp] theorem State.setV_stack (r : Nibble) (b : Byte) : (s.setV r b).stack = s.stack := rfl
@[simp] theorem State.setV_mem (r : Nibble) (b : Byte) : (s.setV r b).mem = s.mem := rfl
@[simp] theorem State.setV_dt (r : Nibble) (b : Byte) : (s.setV r b).dt = s.dt := rfl
@[simp] theorem State.setV_st (r : Nibble) (b : Byte) : (s.setV r b).st = s.st := rfl
@[simp] theorem State.setV_video (r : Nibble) (b : Byte) : (s.setV r b).video = s.video := rfl
@[simp] theorem State.setV_acc (r : Nibble) (b : Byte) : (s.setV r b).acc = s.acc := rfl
@[simp] theorem State.setV_mode (r : Nibble) (b : Byte) : (s.setV r b).mode = s.mode := rfl
@[simp] theorem State.setV_events (r : Nibble) (b : Byte) : (s.setV r b).events = s.events := rfl
@[simp] theorem State.setV_keyAnswers (r : Nibble) (b : Byte) : (s.setV r b).keyAnswers = s.keyAnswers := rfl
@[simp] theorem State.setV_randomAnswers (r : Nibble) (b : Byte) : (s.setV r b).randomAnswers = s.randomAnswers := rfl
@[simp] theorem State.setV_suppliedKeys (r : Nibble) (b : Byte) : (s.setV r b).suppliedKeys = s.suppliedKeys := rfl
@[simp] theorem State.setV_draws (r : Nibble) (b : Byte) : (s.setV r b).draws = s.draws := rfl

/-! ## setI -/

@[simp] theorem State.setI_cfg (n : Nat) : (s.setI n).cfg = s.cfg := rfl
@[simp] theorem State.setI_pc (n : Nat) : (s.setI n).pc = s.pc := rfl
@[simp] theorem State.setI_v (n : Nat) : (s.setI n).v = s.v := rfl
@[simp] theorem State.setI_i (n : Nat) : (s.setI n).i = BitVec.ofNat 16 n := rfl
@[simp] theorem State.setI_sp (n : Nat) : (s.setI n).sp = s.sp := rfl
@[simp] theorem State.setI_stack (n : Nat) : (s.setI n).stack = s.stack := rfl
@[simp] theorem State.setI_mem (n : Nat) : (s.setI n).mem = s.mem := rfl
@[simp] theorem State.setI_dt (n : Nat) : (s.setI n).dt = s.dt := rfl
@[simp] theorem State.setI_st (n : Nat) : (s.setI n).st = s.st := rfl
@[simp] theorem State.setI_video (n : Nat) : (s.setI n).video = s.video := rfl
@[simp] theorem State.setI_acc (n : Nat) : (s.setI n).acc = s.acc := rfl
@[simp] theorem State.setI_mode (n : Nat) : (s.setI n).mode = s.mode := rfl
@[simp] theorem State.setI_events (n : Nat) : (s.setI n).events = s.events := rfl
@[simp] theorem State.setI_keyAnswers (n : Nat) : (s.setI n).keyAnswers = s.keyAnswers := rfl
@[simp] theorem State.setI_randomAnswers (n : Nat) : (s.setI n).randomAnswers = s.randomAnswers := rfl
@[simp] theorem State.setI_suppliedKeys (n : Nat) : (s.setI n).suppliedKeys = s.suppliedKeys := rfl
@[simp] theorem State.setI_draws (n : Nat) : (s.setI n).draws = s.draws := rfl
@[simp] theorem State.setI_getV (n : Nat) (q : Nibble) : (s.setI n).getV q = s.getV q := rfl

/-! ## jump -/

@[simp] theorem State.jump_cfg (t : Nat) : (s.jump t).cfg = s.cfg := rfl
@[simp] theorem State.jump_pc (t : Nat) : (s.jump t).pc = BitVec.ofNat 16 (t % memSize) := rfl
@[simp] theorem State.jump_v (t : Nat) : (s.jump t).v = s.v := rfl
@[simp] theorem State.jump_i (t : Nat) : (s.jump t).i = s.i := rfl
@[simp] theorem State.jump_sp (t : Nat) : (s.jump t).sp = s.sp := rfl
@[simp] theorem State.jump_stack (t : Nat) : (s.jump t).stack = s.stack := rfl
@[simp] theorem State.jump_mem (t : Nat) : (s.jump t).mem = s.mem := rfl
@[simp] theorem State.jump_dt (t : Nat) : (s.jump t).dt = s.dt := rfl
@[simp] theorem State.jump_st (t : Nat) : (s.jump t).st = s.st := rfl
@[simp] theorem State.jump_video (t : Nat) : (s.jump t).video = s.video := rfl
@[simp] theorem State.jump_acc (t : Nat) : (s.jump t).acc = s.acc := rfl
@[simp] theorem State.jump_mode (t : Nat) : (s.jump t).mode = s.mode := rfl
@[simp] theorem State.jump_events (t : Nat) : (s.jump t).events = s.events := rfl
@[simp] theorem State.jump_keyAnswers (t : Nat) : (s.jump t).keyAnswers = s.keyAnswers := rfl
@[simp] theorem State.jump_randomAnswers (t : Nat) : (s.jump t).randomAnswers = s.randomAnswers := rfl
@[simp] theorem State.jump_suppliedKeys (t : Nat) : (s.jump t).suppliedKeys = s.suppliedKeys := rfl
@[simp] theorem State.jump_draws (t : Nat) : (s.jump t).draws = s.draws := rfl
@[simp] theorem State.jump_getV (t : Nat) (q : Nibble) : (s.jump t).getV q = s.getV q := rfl

/-! ## emit -/

@[simp] theorem State.emit_cfg (e : Event) : (s.emit e).cfg = s.cfg := rfl
@[simp] theorem State.emit_pc (e : Event) : (s.emit e).pc = s.pc := rfl
@[simp] theorem State.emit_v (e : Event) : (s.emit e).v = s.v := rfl
@[simp] theorem State.emit_i (e : Event) : (s.emit e).i = s.i := rfl
@[simp] theorem State.emit_sp (e : Event) : (s.emit e).sp = s.sp := rfl
@[simp] theorem State.emit_stack (e : Event) : (s.emit e).stack = s.stack := rfl
@[simp] theorem State.emit_mem (e : Event) : (s.emit e).mem = s.mem := rfl
@[simp] theorem State.emit_dt (e : Event) : (s.emit e).dt = s.dt := rfl
@[simp] theorem State.emit_st (e : Event) : (s.emit e).st = s.st := rfl
@[simp] theorem State.emit_video (e : Event) : (s.emit e).video = s.video := rfl
@[simp] theorem State.emit_acc (e : Event) : (s.emit e).acc = s.acc := rfl
@[simp] theorem State.emit_mode (e : Event) : (s.emit e).mode = s.mode := rfl
@[simp] theorem State.emit_events (e : Event) : (s.emit e).events = e :: s.events := rfl
@[simp] theorem State.emit_keyAnswers (e : Event) : (s.emit e).keyAnswers = s.keyAnswers := rfl
@[simp] theorem State.emit_randomAnswers (e : Event) : (s.emit e).randomAnswers = s.randomAnswers := rfl
@[simp] theorem State.emit_suppliedKeys (e : Event) : (s.emit e).suppliedKeys = s.suppliedKeys := rfl
@[simp] theorem State.emit_draws (e : Event) : (s.emit e).draws = s.draws := rfl
@[simp] theorem State.emit_getV (e : Event) (q : Nibble) : (s.emit e).getV q = s.getV q := rfl

/-! ## enterFault -/

@[simp] theorem State.enterFault_cfg (r : Report) : (s.enterFault r).cfg = s.cfg := rfl
@[simp] theorem State.enterFault_pc (r : Report) : (s.enterFault r).pc = s.pc := rfl
@[simp] theorem State.enterFault_v (r : Report) : (s.enterFault r).v = s.v := rfl
@[simp] theorem State.enterFault_i (r : Report) : (s.enterFault r).i = s.i := rfl
@[simp] theorem State.enterFault_sp (r : Report) : (s.enterFault r).sp = s.sp := rfl
@[simp] theorem State.enterFault_stack (r : Report) : (s.enterFault r).stack = s.stack := rfl
@[simp] theorem State.enterFault_mem (r : Report) : (s.enterFault r).mem = s.mem := rfl
@[simp] theorem State.enterFault_dt (r : Report) : (s.enterFault r).dt = s.dt := rfl
@[simp] theorem State.enterFault_st (r : Report) : (s.enterFault r).st = s.st := rfl
@[simp] theorem State.enterFault_video (r : Report) : (s.enterFault r).video = s.video := rfl
@[simp] theorem State.enterFault_acc (r : Report) : (s.enterFault r).acc = s.acc := rfl
@[simp] theorem State.enterFault_mode (r : Report) : (s.enterFault r).mode = .faulted r := rfl
@[simp] theorem State.enterFault_events (r : Report) : (s.enterFault r).events = .fault r :: s.events := rfl
@[simp] theorem State.enterFault_keyAnswers (r : Report) : (s.enterFault r).keyAnswers = s.keyAnswers := rfl
@[simp] theorem State.enterFault_randomAnswers (r : Report) : (s.enterFault r).randomAnswers = s.randomAnswers := rfl
@[simp] theorem State.enterFault_suppliedKeys (r : Report) : (s.enterFault r).suppliedKeys = s.suppliedKeys := rfl
@[simp] theorem State.enterFault_draws (r : Report) : (s.enterFault r).draws = s.draws := rfl
@[simp] theorem State.enterFault_getV (r : Report) (q : Nibble) : (s.enterFault r).getV q = s.getV q := rfl

/-! ## askPressed -/

@[simp] theorem State.askPressed_cfg (k : Nibble) : (s.askPressed k).cfg = s.cfg := rfl
@[simp] theorem State.askPressed_pc (k : Nibble) : (s.askPressed k).pc = s.pc := rfl
@[simp] theorem State.askPressed_v (k : Nibble) : (s.askPressed k).v = s.v := rfl
@[simp] theorem State.askPressed_i (k : Nibble) : (s.askPressed k).i = s.i := rfl
@[simp] theorem State.askPressed_sp (k : Nibble) : (s.askPressed k).sp = s.sp := rfl
@[simp] theorem State.askPressed_stack (k : Nibble) : (s.askPressed k).stack = s.stack := rfl
@[simp] theorem State.askPressed_mem (k : Nibble) : (s.askPressed k).mem = s.mem := rfl
@[simp] theorem State.askPressed_dt (k : Nibble) : (s.askPressed k).dt = s.dt := rfl
@[simp] theorem State.askPressed_st (k : Nibble) : (s.askPressed k).st = s.st := rfl
@[simp] theorem State.askPressed_video (k : Nibble) : (s.askPressed k).video = s.video := rfl
@[simp] theorem State.askPressed_acc (k : Nibble) : (s.askPressed k).acc = s.acc := rfl
@[simp] theorem State.askPressed_mode (k : Nibble) : (s.askPressed k).mode = s.mode := rfl
@[simp] theorem State.askPressed_events (k : Nibble) : (s.askPressed k).events = .isPressed k (s.pressedAnswer k) :: s.events := rfl
@[simp] theorem State.askPressed_keyAnswers (k : Nibble) : (s.askPressed k).keyAnswers = s.keyAnswers.tail := rfl
@[simp] theorem State.askPressed_randomAnswers (k : Nibble) : (s.askPressed k).randomAnswers = s.randomAnswers := rfl
@[simp] theorem State.askPressed_suppliedKeys (k : Nibble) : (s.askPressed k).suppliedKeys = s.suppliedKeys := rfl
@[simp] theorem State.askPressed_draws (k : Nibble) : (s.askPressed k).draws = if s.keyAnswers.isEmpty then s.draws + 1 else s.draws := rfl
@[simp] theorem State.askPressed_getV (k : Nibble) (q : Nibble) : (s.askPressed k).getV q = s.getV q := rfl

/-! ## askRandom -/

@[simp] theorem State.askRandom_cfg : s.askRandom.cfg = s.cfg := rfl
@[simp] theorem State.askRandom_pc : s.askRandom.pc = s.pc := rfl
@[simp] theorem State.askRandom_v : s.askRandom.v = s.v := rfl
@[simp] theorem State.askRandom_i : s.askRandom.i = s.i := rfl
@[simp] theorem State.askRandom_sp : s.askRandom.sp = s.sp := rfl
@[simp] theorem State.askRandom_stack : s.askRandom.stack = s.stack := rfl
@[simp] theorem State.askRandom_mem : s.askRandom.mem = s.mem := rfl
@[simp] theorem State.askRandom_dt : s.askRandom.dt = s.dt := rfl
@[simp] theorem State.askRandom_st : s.askRandom.st = s.st := rfl
@[simp] theorem State.askRandom_video : s.askRandom.video = s.video := rfl
@[simp] theorem State.askRandom_acc : s.askRandom.acc = s.acc := rfl
@[simp] theorem State.askRandom_mode : s.askRandom.mode = s.mode := rfl
@[simp] theorem State.askRandom_events : s.askRandom.events = .randomByte s.randomAnswer :: s.events := rfl
@[simp] theorem State.askRandom_keyAnswers : s.askRandom.keyAnswers = s.keyAnswers := rfl
@[simp] theorem State.askRandom_randomAnswers : s.askRandom.randomAnswers = s.randomAnswers.tail := rfl
@[simp] theorem State.askRandom_suppliedKeys : s.askRandom.suppliedKeys = s.suppliedKeys := rfl
@[simp] theorem State.askRandom_draws : s.askRandom.draws = if s.randomAnswers.isEmpty then s.draws + 1 else s.draws := rfl
@[simp] theorem State.askRandom_getV (q : Nibble) : s.askRandom.getV q = s.getV q := rfl

/-! ## crossPeriod -/

@[simp] theorem State.crossPeriod_cfg : s.crossPeriod.cfg = s.cfg := rfl
@[simp] theorem State.crossPeriod_pc : s.crossPeriod.pc = s.pc := rfl
@[simp] theorem State.crossPeriod_v : s.crossPeriod.v = s.v := rfl
@[simp] theorem State.crossPeriod_i : s.crossPeriod.i = s.i := rfl
@[simp] theorem State.crossPeriod_sp : s.crossPeriod.sp = s.sp := rfl
@[simp] theorem State.crossPeriod_stack : s.crossPeriod.stack = s.stack := rfl
@[simp] theorem State.crossPeriod_mem : s.crossPeriod.mem = s.mem := rfl
@[simp] theorem State.crossPeriod_dt : s.crossPeriod.dt = countDown s.dt := rfl
@[simp] theorem State.crossPeriod_st : s.crossPeriod.st = countDown s.st := rfl
@[simp] theorem State.crossPeriod_video : s.crossPeriod.video = s.video := rfl
@[simp] theorem State.crossPeriod_acc : s.crossPeriod.acc = s.acc - s.cfg.timerPeriod := rfl
@[simp] theorem State.crossPeriod_mode : s.crossPeriod.mode = s.mode := rfl
@[simp] theorem State.crossPeriod_events : s.crossPeriod.events = .tick s.cfg.timerPeriod :: s.events := rfl
@[simp] theorem State.crossPeriod_keyAnswers : s.crossPeriod.keyAnswers = s.keyAnswers := rfl
@[simp] theorem State.crossPeriod_randomAnswers : s.crossPeriod.randomAnswers = s.randomAnswers := rfl
@[simp] theorem State.crossPeriod_suppliedKeys : s.crossPeriod.suppliedKeys = s.suppliedKeys := rfl
@[simp] theorem State.crossPeriod_draws : s.crossPeriod.draws = s.draws := rfl
@[simp] theorem State.crossPeriod_getV (q : Nibble) : s.crossPeriod.getV q = s.getV q := rfl

/-! ## addInstrTime -/

@[simp] theorem State.addInstrTime_cfg : s.addInstrTime.cfg = s.cfg := rfl
@[simp] theorem State.addInstrTime_pc : s.addInstrTime.pc = s.pc := rfl
@[simp] theorem State.addInstrTime_v : s.addInstrTime.v = s.v := rfl
@[simp] theorem State.addInstrTime_i : s.addInstrTime.i = s.i := rfl
@[simp] theorem State.addInstrTime_sp : s.addInstrTime.sp = s.sp := rfl
@[simp] theorem State.addInstrTime_stack : s.addInstrTime.stack = s.stack := rfl
@[simp] theorem State.addInstrTime_mem : s.addInstrTime.mem = s.mem := rfl
@[simp] theorem State.addInstrTime_dt : s.addInstrTime.dt = s.dt := rfl
@[simp] theorem State.addInstrTime_st : s.addInstrTime.st = s.st := rfl
@[simp] theorem State.addInstrTime_video : s.addInstrTime.video = s.video := rfl
@[simp] theorem State.addInstrTime_acc : s.addInstrTime.acc = s.acc + s.cfg.instrTime := rfl
@[simp] theorem State.addInstrTime_mode : s.addInstrTime.mode = s.mode := rfl
@[simp] theorem State.addInstrTime_events : s.addInstrTime.events = s.events := rfl
@[simp] theorem State.addInstrTime_keyAnswers : s.addInstrTime.keyAnswers = s.keyAnswers := rfl
@[simp] theorem State.addInstrTime_randomAnswers : s.addInstrTime.randomAnswers = s.randomAnswers := rfl
@[simp] theorem State.addInstrTime_suppliedKeys : s.addInstrTime.suppliedKeys = s.suppliedKeys := rfl
@[simp] theorem State.addInstrTime_draws : s.addInstrTime.draws = s.draws := rfl
@[simp] theorem State.addInstrTime_getV (q : Nibble) : s.addInstrTime.getV q = s.getV q := rfl

/-! ## Operations that are another operation -/

@[simp] theorem State.advance_eq (k : Nat) : s.advance k = s.jump (s.pc.toNat + 2 * k) := rfl
@[simp] theorem State.seq_eq : s.seq = s.jump (s.pc.toNat + 2) := rfl
@[simp] theorem State.skip_eq (c : Bool) : s.skip c = s.jump (s.pc.toNat + 2 * (if c then 2 else 1)) := rfl
@[simp] theorem State.render_eq : s.render = s.emit (.render s.video) := rfl
@[simp] theorem State.raise_eq (kind : FatalKind) (i : Instr) (extra : Extra) :
    s.raise kind i extra = s.enterFault (s.report kind i.mnemonic (some (encode i)) extra) := rfl
@[simp] theorem State.raiseUnknown_eq (w : Word) :
    s.raiseUnknown w = s.enterFault (s.report .unknownOpcode "UNKNOWN" (some w) .none) := rfl
@[simp] theorem State.raiseFetch_eq :
    s.raiseFetch = s.enterFault (s.report .memoryOutOfBounds "FETCH" none (.access s.pc.toNat 2)) := rfl

end Sys2Proof.Machine
end

