-- ==== Sys2Proof/Laws/Engine.lean ====
section
/-! SUPPORT. What one move of the machine can be: a step and the host's operations, each said once (spec/40_engine_cycle.md
R130 to R138; spec/60_exceptions.md R326), and the completion of a key wait field by field. -/

namespace Sys2Proof.Machine

/-! ## The completion of a key wait before its pacing -/

/-- The state `supply_key` paces (R138). -/
def resumedState (s : State) (x k : Nibble) : State :=
  State.emit (State.seq (State.setV { s with mode := .run } x (BitVec.ofNat 8 k.toNat))) (.waitKey k)

theorem completeWait_eq (s : State) (x k : Nibble) : s.completeWait x k = (resumedState s x k).pace := rfl

variable (s : State) (x k : Nibble)

@[simp] theorem resumedState_cfg : (resumedState s x k).cfg = s.cfg := rfl
@[simp] theorem resumedState_i : (resumedState s x k).i = s.i := rfl
@[simp] theorem resumedState_sp : (resumedState s x k).sp = s.sp := rfl
@[simp] theorem resumedState_stack : (resumedState s x k).stack = s.stack := rfl
@[simp] theorem resumedState_mem : (resumedState s x k).mem = s.mem := rfl
@[simp] theorem resumedState_dt : (resumedState s x k).dt = s.dt := rfl
@[simp] theorem resumedState_st : (resumedState s x k).st = s.st := rfl
@[simp] theorem resumedState_video : (resumedState s x k).video = s.video := rfl
@[simp] theorem resumedState_acc : (resumedState s x k).acc = s.acc := rfl
@[simp] theorem resumedState_mode : (resumedState s x k).mode = .run := rfl
@[simp] theorem resumedState_events : (resumedState s x k).events = .waitKey k :: s.events := rfl
@[simp] theorem resumedState_keyAnswers : (resumedState s x k).keyAnswers = s.keyAnswers := rfl
@[simp] theorem resumedState_randomAnswers : (resumedState s x k).randomAnswers = s.randomAnswers := rfl
@[simp] theorem resumedState_suppliedKeys : (resumedState s x k).suppliedKeys = s.suppliedKeys := rfl
@[simp] theorem resumedState_draws : (resumedState s x k).draws = s.draws := rfl

/-! ## The host's operations -/

/-- `supply_key` has a next state exactly for a key 0 to 15 on an engine that waits (R138, R326). -/
theorem supplyKey_eq_next_iff (k : Nat) (s t : State) :
    supplyKey k s = .next t ↔ k < 16 ∧ ∃ x, s.mode = .waitKey x ∧ t = (resumedState s x (BitVec.ofNat 4 k)).pace := by
  unfold supplyKey
  split
  · rename_i hk
    cases hm : s.mode <;> simp [hk, completeWait_eq, eq_comm]
  · simp_all

/-- `load_data` has a next state exactly inside its bound in a session no fatal condition has ended (R80). -/
theorem loadData_eq_next_iff (bytes : List Byte) (offset : Nat) (s t : State) :
    loadData bytes offset s = .next t ↔
      s.Alive ∧ offset + bytes.length ≤ memSize ∧ t = { s with mem := s.mem.writeBytes offset bytes } := by
  by_cases h : offset + bytes.length ≤ memSize <;>
    cases hm : s.mode <;> simp [loadData, State.Alive, inRange, hm, h, eq_comm]

/-! ## Steps -/

theorem afterExecute_of_run {s : State} (h : s.mode = .run) : s.afterExecute = s.pace := by
  simp only [State.afterExecute, h]

theorem afterExecute_of_not_run {s : State} (h : s.mode ≠ .run) : s.afterExecute = s := by
  cases hm : s.mode <;> simp_all [State.afterExecute]

/-- Everything a step can do (R130 to R138, R306): nothing, finish a key wait, fail to fetch, fail to decode, or execute
the instruction fetched. -/
theorem step_cases {s t : State} (h : step s = .next t) :
    (s.mode ≠ .run ∧ t = s) ∨
    (∃ x k ks, s.mode = .waitKey x ∧ s.suppliedKeys = k :: ks ∧
      t = (resumedState { s with suppliedKeys := ks } x k).pace) ∨
    (s.mode = .run ∧ memSize < s.pc.toNat + 2 ∧ t = s.raiseFetch) ∨
    (s.mode = .run ∧ s.pc.toNat + 2 ≤ memSize ∧ decode s.cfg.strictDecode (s.fetch s.pc.toNat) = .unknown ∧
      t = s.raiseUnknown (s.fetch s.pc.toNat)) ∨
    (s.mode = .run ∧ s.pc.toNat + 2 ≤ memSize ∧ ∃ i u,
      decode s.cfg.strictDecode (s.fetch s.pc.toNat) = .known i ∧ exec i s = .next u ∧ t = u.afterExecute) := by
  cases hm : s.mode with
  | faulted r =>
    have : t = s := by simpa [step, sessionStep, engineStep, hm, eq_comm] using h
    exact .inl ⟨by simp, this⟩
  | waitKey x =>
    cases hk : s.suppliedKeys with
    | nil =>
      have : t = s := by simpa [step, sessionStep, engineStep, hm, hk, eq_comm] using h
      exact .inl ⟨by simp, this⟩
    | cons k ks =>
      simp only [step, sessionStep, hm, hk, supplyKey_eq_next_iff, BitVec.ofNat_toNat, BitVec.setWidth_eq] at h
      obtain ⟨-, y, hy, rfl⟩ := h
      cases hy
      exact .inr (.inl ⟨x, k, ks, rfl, rfl, rfl⟩)
  | run =>
    simp only [step, sessionStep, engineStep, hm, runStep] at h
    split at h
    · rename_i hr
      have hr : s.pc.toNat + 2 ≤ memSize := of_decide_eq_true hr
      cases hd : decode s.cfg.strictDecode (s.fetch s.pc.toNat) with
      | unknown =>
        simp only [hd, Host.Outcome.next.injEq] at h
        exact .inr (.inr (.inr (.inl ⟨rfl, hr, rfl, h.symm⟩)))
      | known i =>
        simp only [hd] at h
        cases he : exec i s with
        | next u =>
          simp only [he, finishStep, Host.Outcome.next.injEq] at h
          exact .inr (.inr (.inr (.inr ⟨rfl, hr, i, u, rfl, he, h.symm⟩)))
        | fault r => simp [he, finishStep] at h
        | refused r => simp [he, finishStep] at h
    · rename_i hr
      have hr : memSize < s.pc.toNat + 2 := Nat.lt_of_not_le (fun e => hr (decide_eq_true e))
      exact .inr (.inr (.inl ⟨rfl, hr, (by simpa [eq_comm] using h)⟩))

end Sys2Proof.Machine
end

