-- ==== Sys2Proof/Laws/Memory.lean ====
section
/-! SUPPORT. Memory: every operation keeps the canonical form; a read after a write gives the value written at its place
and what was there before elsewhere; the same for blocks. -/

namespace Sys2Proof.Machine

theorem inRange_iff (a n : Nat) : inRange a n = true ↔ a + n ≤ memSize := by simp [inRange]

theorem inRange_eq_false_iff (a n : Nat) : inRange a n = false ↔ memSize < a + n := by
  simp [inRange]

theorem wfFrom_cons (lo k : Nat) (b : Byte) (m : Memory) :
    Memory.wfFrom lo ((k, b) :: m) = true ↔ lo ≤ k ∧ k < memSize ∧ b ≠ 0 ∧ Memory.wfFrom (k + 1) m = true := by
  simp [Memory.wfFrom, and_assoc]

theorem wfFrom_mono {lo lo' : Nat} (h : lo' ≤ lo) {m : Memory} (hm : Memory.wfFrom lo m = true) :
    Memory.wfFrom lo' m = true := by
  cases m with
  | nil => rfl
  | cons e m =>
    obtain ⟨k, b⟩ := e
    rw [wfFrom_cons] at hm ⊢
    exact ⟨h.trans hm.1, hm.2⟩

/-- Below the first address of a canonical memory everything reads 0. -/
theorem read_below {lo : Nat} {m : Memory} (hm : Memory.wfFrom lo m = true) {a : Nat} (ha : a < lo) : m.read a = 0 := by
  induction m generalizing lo with
  | nil => rfl
  | cons e m ih =>
    obtain ⟨k, b⟩ := e
    rw [wfFrom_cons] at hm
    have hk : a ≠ k := by omega
    simp only [Memory.read, if_neg hk]
    exact ih hm.2.2.2 (by omega)

theorem write_wfFrom {lo : Nat} {m : Memory} (hm : Memory.wfFrom lo m = true) {a : Nat} (hlo : lo ≤ a)
    (ha : a < memSize) (b : Byte) : Memory.wfFrom lo (m.write a b) = true := by
  induction m generalizing lo with
  | nil =>
    by_cases hb : b = 0#8
    · simp [Memory.write, hb, Memory.wfFrom]
    · simp [Memory.write, hb, Memory.wfFrom, hlo, ha]
  | cons e m ih =>
    obtain ⟨k, c⟩ := e
    have hm' := (wfFrom_cons ..).1 hm
    obtain ⟨h1, h2, h3, h4⟩ := hm'
    simp only [Memory.write]
    split
    · split
      · exact hm
      · rename_i hak hb
        exact (wfFrom_cons ..).2 ⟨hlo, ha, hb, (wfFrom_cons ..).2 ⟨hak, h2, h3, h4⟩⟩
    · split
      · split
        · exact wfFrom_mono (by omega) h4
        · rename_i hk hb
          subst hk
          exact (wfFrom_cons ..).2 ⟨hlo, ha, hb, h4⟩
      · exact (wfFrom_cons ..).2 ⟨h1, h2, h3, ih h4 (by omega)⟩

/-- A store inside the address space keeps the canonical form. -/
theorem write_wf {m : Memory} (hm : m.wf = true) {a : Nat} (ha : a < memSize) (b : Byte) : (m.write a b).wf = true :=
  write_wfFrom hm (Nat.zero_le a) ha b

/-- A block store inside the address space keeps the canonical form. -/
theorem writeBytes_wf {m : Memory} (hm : m.wf = true) {a : Nat} {bs : List Byte} (h : a + bs.length ≤ memSize) :
    (m.writeBytes a bs).wf = true := by
  induction bs generalizing m a with
  | nil => exact hm
  | cons b bs ih =>
    simp only [List.length_cons] at h
    exact ih (write_wf hm (by omega) b) (by omega)

/-- Memory at construction is canonical. -/
theorem construct_mem_wf (c : SessionConfig) : (State.construct c).mem.wf = true := rfl

theorem read_write_same_from {lo : Nat} {m : Memory} (hm : Memory.wfFrom lo m = true) {a : Nat} (b : Byte) :
    (m.write a b).read a = b := by
  induction m generalizing lo with
  | nil => by_cases hb : b = 0#8 <;> simp [Memory.write, Memory.read, hb]
  | cons e m ih =>
    obtain ⟨k, c⟩ := e
    obtain ⟨-, -, -, h4⟩ := (wfFrom_cons ..).1 hm
    simp only [Memory.write]
    split
    · rename_i hak
      split
      · rename_i hb
        have hne : a ≠ k := by omega
        simp only [Memory.read, if_neg hne, hb]
        exact read_below h4 (by omega)
      · simp [Memory.read]
    · split
      · rename_i hk
        split
        · rename_i hb
          rw [hb]
          exact read_below h4 (by omega)
        · simp [Memory.read]
      · rename_i hk
        simp only [Memory.read, if_neg hk]
        exact ih h4

/-- A read after a write to the same address gives the byte written. -/
theorem read_write_same {m : Memory} (hm : m.wf = true) (a : Nat) (b : Byte) : (m.write a b).read a = b :=
  read_write_same_from hm b

/-- A write leaves every other address alone, canonical or not. -/
theorem read_write_other (m : Memory) {a a' : Nat} (h : a' ≠ a) (b : Byte) : (m.write a b).read a' = m.read a' := by
  induction m with
  | nil => by_cases hb : b = 0#8 <;> simp [Memory.write, Memory.read, hb, h]
  | cons e m ih =>
    obtain ⟨k, c⟩ := e
    simp only [Memory.write]
    split
    · split <;> simp [Memory.read, h]
    · split
      · rename_i hk
        subst hk
        split <;> simp [Memory.read, h]
      · simp only [Memory.read]
        split
        · rfl
        · exact ih

/-- A block store leaves every address outside the block alone. -/
theorem read_writeBytes_other (m : Memory) (a : Nat) (bs : List Byte) {a' : Nat} (h : a' < a ∨ a + bs.length ≤ a') :
    (m.writeBytes a bs).read a' = m.read a' := by
  induction bs generalizing m a with
  | nil => rfl
  | cons b bs ih =>
    simp only [List.length_cons] at h
    rw [Memory.writeBytes, ih _ _ (by omega), read_write_other m (by omega)]

/-- After a block store each address of the block reads its byte. -/
theorem read_writeBytes_same {m : Memory} (hm : m.wf = true) {a : Nat} {bs : List Byte} (h : a + bs.length ≤ memSize)
    {j : Nat} (hj : j < bs.length) : (m.writeBytes a bs).read (a + j) = bs[j] := by
  induction bs generalizing m a j with
  | nil => simp at hj
  | cons b bs ih =>
    simp only [List.length_cons] at h hj
    rw [Memory.writeBytes]
    cases j with
    | zero =>
      rw [read_writeBytes_other _ _ _ (by omega)]
      simpa using read_write_same hm a b
    | succ j =>
      have := ih (m := m.write a b) (write_wf hm (by omega) b) (a := a + 1) (by omega) (j := j) (by omega)
      simpa [Nat.add_assoc, Nat.add_comm 1 j] using this

@[simp] theorem readBytes_length (m : Memory) (a n : Nat) : (m.readBytes a n).length = n := by
  induction n generalizing a with
  | zero => rfl
  | succ n ih => simp [Memory.readBytes, ih]

/-- A block read gives each address's byte in turn. -/
theorem readBytes_getElem (m : Memory) (a n : Nat) {j : Nat} (hj : j < (m.readBytes a n).length) :
    (m.readBytes a n)[j] = m.read (a + j) := by
  induction n generalizing a j with
  | zero => simp at hj
  | succ n ih =>
    cases j with
    | zero => rfl
    | succ j =>
      simp only [Memory.readBytes, List.getElem_cons_succ]
      rw [ih]
      congr 1
      omega

end Sys2Proof.Machine
end

