-- ==== Sys2Proof/Laws/Registers.lean ====
section
/-! SUPPORT. The register file and the call stack: what each operation gives and leaves alone. -/

namespace Sys2Proof.Machine

@[simp] theorem getV_setV_self (s : State) (x : Nibble) (b : Byte) : (s.setV x b).getV x = b := by
  simp [State.getV, State.setV]

theorem getV_setV_ne (s : State) {x r : Nibble} (h : r ≠ x) (b : Byte) : (s.setV x b).getV r = s.getV r := by
  have hne : x.toNat ≠ r.toNat := fun e => h (BitVec.eq_of_toNat_eq e.symm)
  simp [State.getV, State.setV, hne]

theorem getV_setV (s : State) (x r : Nibble) (b : Byte) : (s.setV x b).getV r = if r = x then b else s.getV r := by
  split
  · rename_i h; subst h; simp
  · rename_i h; exact getV_setV_ne s h b

/-- All that `WriteRF` does to the registers (R190). -/
theorem writeRF_wrote (s : State) (x : Nibble) (result flag : Byte) : WroteRF s (s.writeRF x result flag) x result flag := by
  constructor
  · intro h
    cases ho : s.cfg.vfOrder <;> simp [State.writeRF, ho, getV_setV, h]
  · intro h
    cases ho : s.cfg.vfOrder <;> simp [State.writeRF, ho, getV_setV, Ne.symm h]
  · rintro rfl
    cases ho : s.cfg.vfOrder <;> simp [State.writeRF, ho]
  · intro r h1 h2
    cases ho : s.cfg.vfOrder <;> simp [State.writeRF, ho, getV_setV, h1, h2]

/-- `WriteRF` writes nothing but registers (R190). -/
theorem writeRF_changes (s : State) (x : Nibble) (result flag : Byte) :
    ChangesOnly [.v] s (s.writeRF x result flag) := by
  intro p hp
  cases ho : s.cfg.vfOrder <;> cases p <;> simp_all [State.writeRF, Part.Same]

/-- `loadRegs` gives each register of the block its byte and leaves the others (R235). -/
theorem loadRegs_getV (s : State) (bs : List Byte) (j : Nat) (h : j + bs.length ≤ 16) (r : Nibble) :
    (s.loadRegs j bs).getV r =
      if hr : j ≤ r.toNat ∧ r.toNat < j + bs.length then bs[r.toNat - j]'(by omega) else s.getV r := by
  induction bs generalizing s j with
  | nil =>
    have : ¬(j ≤ r.toNat ∧ r.toNat < j + ([] : List Byte).length) := by simp only [List.length_nil]; omega
    rw [dif_neg this]
    rfl
  | cons b bs ih =>
    simp only [List.length_cons] at h
    have hj : (BitVec.ofNat 4 j).toNat = j := by simp; omega
    rw [State.loadRegs, ih _ _ (by omega), getV_setV]
    by_cases h1 : j + 1 ≤ r.toNat ∧ r.toNat < j + 1 + bs.length
    · have h2 : j ≤ r.toNat ∧ r.toNat < j + (b :: bs).length := by simp only [List.length_cons]; omega
      rw [dif_pos h1, dif_pos h2]
      have e : r.toNat - j = (r.toNat - (j + 1)) + 1 := by omega
      simp only [e, List.getElem_cons_succ]
    · rw [dif_neg h1]
      by_cases h3 : r = BitVec.ofNat 4 j
      · have h4 : r.toNat = j := by rw [h3, hj]
        have h2 : j ≤ r.toNat ∧ r.toNat < j + (b :: bs).length := by simp only [List.length_cons]; omega
        rw [if_pos h3, dif_pos h2]
        simp [h4]
      · have h4 : r.toNat ≠ j := fun e => h3 (BitVec.eq_of_toNat_eq (by rw [e, hj]))
        have h2 : ¬(j ≤ r.toNat ∧ r.toNat < j + (b :: bs).length) := by simp only [List.length_cons]; omega
        rw [if_neg h3, dif_neg h2]

/-- `loadRegs` writes nothing but registers. -/
theorem loadRegs_changes (s : State) (bs : List Byte) (j : Nat) : ChangesOnly [.v] s (s.loadRegs j bs) := by
  induction bs generalizing s j with
  | nil => intro p _; cases p <;> simp [State.loadRegs, Part.Same]
  | cons b bs ih =>
    intro p hp
    have := ih (s.setV (BitVec.ofNat 4 j) b) (j + 1) p hp
    cases p <;> simp_all [State.loadRegs, Part.Same]

/-- `push` fails exactly at depth 16 (R35). -/
theorem push_eq_none_iff (s : State) (t : Word) : s.push t = none ↔ s.sp.val = stackDepth := by
  have := s.sp.isLt
  simp only [State.push, stackDepth]
  split <;> simp <;> omega

/-- What a `push` that succeeds gives (R35, R160). -/
theorem push_of_lt (s : State) (t : Word) (h : s.sp.val < stackDepth) :
    s.push t = some { s with stack := s.stack.set s.sp.val t h, sp := ⟨s.sp.val + 1, Nat.succ_lt_succ h⟩ } := by
  simp [State.push, h]

/-- `pop` fails exactly at depth 0 (R35). -/
theorem pop_eq_none_iff (s : State) : s.pop = none ↔ s.sp.val = 0 := by
  simp only [State.pop]
  split <;> simp_all

/-- What a `pop` that succeeds gives (R35, R162). -/
theorem pop_of_ne (s : State) (h : s.sp.val ≠ 0) :
    s.pop = some (s.stack[s.sp.val - 1]'(by omega), { s with sp := ⟨s.sp.val - 1, by omega⟩ }) := by
  simp [State.pop, h]

/-- Every write of `PC` leaves it below 4096 (R39). -/
theorem jump_pc_toNat (s : State) (t : Nat) : (s.jump t).pc.toNat = t % memSize := by
  simp only [State.jump_pc, BitVec.toNat_ofNat, memSize]
  omega

/-- A state whose `PC` was written by `advance(k)` from another state's has advanced by it (R31). -/
theorem advanced_of_pc {s t : State} {k : Nat} (h : t.pc = BitVec.ofNat 16 ((s.pc.toNat + 2 * k) % memSize)) :
    Advanced k s t := by
  simp only [Advanced, h, BitVec.toNat_ofNat, memSize]
  omega

/-- Entering the fault state with the report of the state it is entered from ends the session, and does nothing else
(R305). -/
theorem enterFault_endsSession (s : State) (kind : FatalKind) (name : String) (opcode : Option Word) (extra : Extra) :
    EndsSession s (s.enterFault (s.report kind name opcode extra)) kind kind.code name opcode extra := by
  refine ⟨_, rfl, rfl, ?_, rfl, rfl, rfl, rfl, rfl, rfl, rfl, rfl, rfl⟩
  intro p hp
  cases p <;> simp_all [Part.Same]

end Sys2Proof.Machine
end

