-- ==== Sys2Proof/Laws/Exec.lean ====
section
/-! SUPPORT. The execute phases that branch: which state each branch gives, so that no proof unfolds a meaning. -/

namespace Sys2Proof.Machine

/-- The state `push` leaves below depth 16. -/
def pushedState (s : State) (t : Word) (h : s.sp.val < stackDepth) : State :=
  { s with stack := s.stack.set s.sp.val t h, sp := ⟨s.sp.val + 1, Nat.succ_lt_succ h⟩ }

/-- The state `pop` leaves above depth 0. -/
def poppedState (s : State) : State := { s with sp := ⟨s.sp.val - 1, by omega⟩ }

theorem exec_call_of_lt (s : State) (nnn : Addr) (h : s.sp.val < stackDepth) :
    exec (.call nnn) s = .next ((pushedState s (returnAddress s) h).jump nnn.toNat) := by
  simp only [exec, execCall, push_of_lt s _ h, pushedState]

theorem exec_call_of_full (s : State) (nnn : Addr) (h : s.sp.val = stackDepth) :
    exec (.call nnn) s = .next (s.raise .stackOverflow (.call nnn) .none) := by
  simp only [exec, execCall, (push_eq_none_iff s _).2 h]

theorem exec_ret_of_ne (s : State) (z : Nibble) (h : s.sp.val ≠ 0) :
    exec (.ret z) s = .next ((poppedState s).jump (s.stack[s.sp.val - 1]'(by omega)).toNat) := by
  simp only [exec, execRet, pop_of_ne s h, poppedState]

theorem exec_ret_of_empty (s : State) (z : Nibble) (h : s.sp.val = 0) :
    exec (.ret z) s = .next (s.raise .stackUnderflow (.ret z) .none) := by
  simp only [exec, execRet, (pop_eq_none_iff s).2 h]

theorem exec_skp_of_key (s : State) (x : Nibble) (h : (s.getV x).toNat ≤ 15) :
    exec (.skp x) s = .next ((s.askPressed (BitVec.ofNat 4 (s.getV x).toNat)).skip
      (s.pressedAnswer (BitVec.ofNat 4 (s.getV x).toNat))) := by
  have hk : isKey (s.getV x) = true := decide_eq_true h
  simp only [exec, execSkp, hk, if_true]

theorem exec_skp_of_not_key (s : State) (x : Nibble) (h : 15 < (s.getV x).toNat) :
    exec (.skp x) s = .next (s.raise .keyOutOfRange (.skp x) (.value (s.getV x))) := by
  have hk : isKey (s.getV x) = false := decide_eq_false (by omega)
  simp [exec, execSkp, hk]

theorem exec_sknp_of_key (s : State) (x : Nibble) (h : (s.getV x).toNat ≤ 15) :
    exec (.sknp x) s = .next ((s.askPressed (BitVec.ofNat 4 (s.getV x).toNat)).skip
      (!s.pressedAnswer (BitVec.ofNat 4 (s.getV x).toNat))) := by
  have hk : isKey (s.getV x) = true := decide_eq_true h
  simp only [exec, execSknp, hk, if_true]

theorem exec_sknp_of_not_key (s : State) (x : Nibble) (h : 15 < (s.getV x).toNat) :
    exec (.sknp x) s = .next (s.raise .keyOutOfRange (.sknp x) (.value (s.getV x))) := by
  have hk : isKey (s.getV x) = false := decide_eq_false (by omega)
  simp [exec, execSknp, hk]

theorem exec_ldB_of_inRange (s : State) (x : Nibble) (h : s.i.toNat + 3 ≤ memSize) :
    exec (.ldB x) s = .next (State.seq { s with mem := s.mem.writeBytes s.i.toNat (decimalDigits (s.getV x)) }) := by
  have hr : inRange s.i.toNat 3 = true := (inRange_iff ..).2 h
  simp only [exec, execLdB, dataAddress, hr, if_true]

theorem exec_ldB_of_outside (s : State) (x : Nibble) (h : memSize < s.i.toNat + 3) :
    exec (.ldB x) s = .next (s.raise .memoryOutOfBounds (.ldB x) (.access s.i.toNat 3)) := by
  have hr : inRange s.i.toNat 3 = false := (inRange_eq_false_iff ..).2 h
  simp only [exec, execLdB, dataAddress, hr, Bool.false_eq_true, if_false]

theorem exec_ldMemStore_of_inRange (s : State) (x : Nibble) (h : s.i.toNat + (x.toNat + 1) ≤ memSize) :
    exec (.ldMemStore x) s = .next (State.seq (State.setI { s with mem := s.mem.writeBytes s.i.toNat (registerBlock s x) }
      (indexAfterBlock s x))) := by
  have hr : inRange s.i.toNat (x.toNat + 1) = true := (inRange_iff ..).2 h
  simp only [exec, execLdMemStore, dataAddress, hr, if_true]

theorem exec_ldMemStore_of_outside (s : State) (x : Nibble) (h : memSize < s.i.toNat + (x.toNat + 1)) :
    exec (.ldMemStore x) s =
      .next (s.raise .memoryOutOfBounds (.ldMemStore x) (.access s.i.toNat (x.toNat + 1))) := by
  have hr : inRange s.i.toNat (x.toNat + 1) = false := (inRange_eq_false_iff ..).2 h
  simp only [exec, execLdMemStore, dataAddress, hr, Bool.false_eq_true, if_false]

theorem exec_ldMemLoad_of_inRange (s : State) (x : Nibble) (h : s.i.toNat + (x.toNat + 1) ≤ memSize) :
    exec (.ldMemLoad x) s = .next (State.seq (State.setI (s.loadRegs 0 (s.mem.readBytes s.i.toNat (x.toNat + 1)))
      (indexAfterBlock s x))) := by
  have hr : inRange s.i.toNat (x.toNat + 1) = true := (inRange_iff ..).2 h
  simp only [exec, execLdMemLoad, dataAddress, hr, if_true]

theorem exec_ldMemLoad_of_outside (s : State) (x : Nibble) (h : memSize < s.i.toNat + (x.toNat + 1)) :
    exec (.ldMemLoad x) s = .next (s.raise .memoryOutOfBounds (.ldMemLoad x) (.access s.i.toNat (x.toNat + 1))) := by
  have hr : inRange s.i.toNat (x.toNat + 1) = false := (inRange_eq_false_iff ..).2 h
  simp only [exec, execLdMemLoad, dataAddress, hr, Bool.false_eq_true, if_false]

theorem exec_drw_of_inRange (s : State) (x y n : Nibble) (h : s.i.toNat + n.toNat ≤ memSize) :
    exec (.drw x y n) s = .next (State.seq (State.render (State.setV { s with video := (drawBlit s x y n).grid } vf
      (flagByte (drawBlit s x y n).hit)))) := by
  have hr : inRange s.i.toNat n.toNat = true := (inRange_iff ..).2 h
  simp only [exec, execDrw, dataAddress, hr, if_true]

theorem exec_drw_of_outside (s : State) (x y n : Nibble) (h : memSize < s.i.toNat + n.toNat) :
    exec (.drw x y n) s = .next (s.raise .memoryOutOfBounds (.drw x y n) (.access s.i.toNat n.toNat)) := by
  have hr : inRange s.i.toNat n.toNat = false := (inRange_eq_false_iff ..).2 h
  simp only [exec, execDrw, dataAddress, hr, Bool.false_eq_true, if_false]

end Sys2Proof.Machine
end

