-- ==== Sys2Proof/Laws/Fields.lean ====
section
/-! SUPPORT. The fields of a word put together from its parts (spec/30_encoding.md R101). -/

namespace Sys2Proof

section NibbleAddress
variable (a : Nibble) (b : Addr)

@[simp] theorem fieldOp_address : fieldOp (a ++ b : Word) = a := by
  simp only [fieldOp]; exact BitVec.extractLsb'_append_eq_left
@[simp] theorem fieldNNN_address : fieldNNN (a ++ b : Word) = b := by
  simp only [fieldNNN]; exact BitVec.extractLsb'_append_eq_right

end NibbleAddress

section NibbleNibbleByte
variable (a x : Nibble) (b : Byte)

theorem append_nibble_byte : (a ++ x ++ b : Word) = (a ++ (x ++ b : Addr) : Word) := by
  have := BitVec.append_assoc (x₁ := a) (x₂ := x) (x₃ := b)
  simpa using this

@[simp] theorem fieldOp_byte : fieldOp (a ++ x ++ b : Word) = a := by
  rw [append_nibble_byte]; exact fieldOp_address a (x ++ b)
@[simp] theorem fieldKK_byte : fieldKK (a ++ x ++ b : Word) = b := by
  simp only [fieldKK]; exact BitVec.extractLsb'_append_eq_right
@[simp] theorem fieldX_byte : fieldX (a ++ x ++ b : Word) = x := by
  ext k hk
  simp only [fieldX, BitVec.getElem_extractLsb', BitVec.getLsbD_append]
  have h1 : ¬(8 + k < 8) := by omega
  have h2 : 8 + k - 8 = k := by omega
  simp [h2, hk]

end NibbleNibbleByte

section FourNibbles
variable (a x y z : Nibble)

theorem append_two_nibbles : (a ++ x ++ y ++ z : Word) = (a ++ x ++ (y ++ z : Byte) : Word) := by
  have := BitVec.append_assoc (x₁ := a ++ x) (x₂ := y) (x₃ := z)
  simpa using this

@[simp] theorem fieldOp_nibbles : fieldOp (a ++ x ++ y ++ z : Word) = a := by
  rw [append_two_nibbles]; exact fieldOp_byte a x (y ++ z)
@[simp] theorem fieldX_nibbles : fieldX (a ++ x ++ y ++ z : Word) = x := by
  rw [append_two_nibbles]; exact fieldX_byte a x (y ++ z)
@[simp] theorem fieldN_nibbles : fieldN (a ++ x ++ y ++ z : Word) = z := by
  simp only [fieldN]; exact BitVec.extractLsb'_append_eq_right
@[simp] theorem fieldY_nibbles : fieldY (a ++ x ++ y ++ z : Word) = y := by
  ext k hk
  simp only [fieldY, BitVec.getElem_extractLsb', BitVec.getLsbD_append]
  have h2 : 4 + k - 4 = k := by omega
  simp [h2, hk]

end FourNibbles

/-- Every word is its four fields. -/
theorem word_eq_nibbles (w : Word) : fieldOp w ++ fieldX w ++ fieldY w ++ fieldN w = w := by
  apply BitVec.eq_of_getLsbD_eq
  intro k hk
  simp only [fieldOp, fieldX, fieldY, fieldN, BitVec.getLsbD_append, BitVec.getLsbD_extractLsb']
  split
  · simp_all
  · split
    · have : 4 + (k - 4) = k := by omega
      simp_all
    · split
      · have : 8 + (k - 4 - 4) = k := by omega
        simp_all
      · have : 12 + (k - 4 - 4 - 4) = k := by omega
        have h4 : k - 4 - 4 - 4 < 4 := by omega
        simp_all

end Sys2Proof
end

