-- ==== Sys2Proof/Laws/Pacer.lean ====
section
/-! SUPPORT. The pacer's loop (R141): what it leaves alone, and that its fuel is enough. -/

namespace Sys2Proof.Machine

/-- The loop writes only the accumulator, the timers and the events (R147). -/
theorem paceLoop_changes (fuel sound : Nat) (s : State) :
    ChangesOnly [.acc, .dt, .st, .events] s (paceLoop fuel sound s).1 := by
  induction fuel generalizing sound s with
  | zero => intro p _; cases p <;> simp [paceLoop, Part.Same]
  | succ fuel ih =>
    intro p hp
    simp only [paceLoop]
    split
    · have := ih (sound + s.soundOfPeriod) s.crossPeriod p hp
      cases p <;> simp_all [Part.Same]
    · cases p <;> simp [Part.Same]

/-- With fuel for every period the loop leaves the accumulator below a period, at its remainder (R141). -/
theorem paceLoop_acc (fuel sound : Nat) (s : State) (hP : 0 < s.cfg.timerPeriod) (hf : s.acc ≤ fuel) :
    (paceLoop fuel sound s).1.acc = s.acc % s.cfg.timerPeriod := by
  induction fuel generalizing sound s with
  | zero =>
    have : s.acc = 0 := by omega
    simp [paceLoop, this]
  | succ fuel ih =>
    simp only [paceLoop]
    split
    · rename_i h
      rw [ih _ _ (by simpa using hP) (by simp; omega)]
      simp only [State.crossPeriod_acc, State.crossPeriod_cfg]
      exact (Nat.mod_eq_sub_mod h).symm
    · rename_i h
      exact (Nat.mod_eq_of_lt (Nat.lt_of_not_le h)).symm

/-- `pace()` writes only the accumulator, the timers and the events (R147). -/
theorem pace_changes (s : State) : ChangesOnly [.acc, .dt, .st, .events] s s.pace := by
  intro p hp
  have := paceLoop_changes s.addInstrTime.acc 0 s.addInstrTime p hp
  cases p <;> simp_all [Part.Same, State.pace]

end Sys2Proof.Machine
end

