-- ==== Sys2Proof/Laws/PerInstr.lean ====
section
/-! SUPPORT. Per instruction: its encoding carries its own row's pattern under the row's mask (spec/30_encoding.md R118). -/

namespace Sys2Proof.Laws.TablePattern

/-- The opcode of an instruction selects the row of the machine-readable table that bears its mnemonic. -/
def Statement (i : Instr) : Prop :=
  ∃ row ∈ opcodeTable, row.mnemonic = i.mnemonic ∧ encode i &&& row.mask = row.pattern

theorem nibble_and_ones (a : BitVec 4) : a &&& 0xF#4 = a := BitVec.and_allOnes

theorem byte_and_ones (b : BitVec 8) : b &&& 0xFF#8 = b := BitVec.and_allOnes

/-- A word of a nibble and an address under a mask on the nibble alone. -/
theorem mask_op (a : BitVec 4) (b : BitVec 12) : (a ++ b : BitVec 16) &&& 0xF000#16 = a ++ 0#12 := by
  have h : (0xF000#16) = 0xF#4 ++ 0#12 := by decide
  rw [h, BitVec.and_append]
  simp [nibble_and_ones]

/-- A word of two nibbles and a byte under a mask on the first nibble alone. -/
theorem mask_op_byte (a x : BitVec 4) (b : BitVec 8) : (a ++ x ++ b : BitVec 16) &&& 0xF000#16 = a ++ 0#4 ++ 0#8 := by
  have h : (0xF000#16) = 0xF#4 ++ 0#4 ++ 0#8 := by decide
  rw [h, BitVec.and_append, BitVec.and_append]
  simp [nibble_and_ones]

/-- A word of four nibbles under a mask on the first nibble alone. -/
theorem mask_op_nibbles (a x y z : BitVec 4) :
    (a ++ x ++ y ++ z : BitVec 16) &&& 0xF000#16 = a ++ 0#4 ++ 0#4 ++ 0#4 := by
  have h : (0xF000#16) = 0xF#4 ++ 0#4 ++ 0#4 ++ 0#4 := by decide
  rw [h, BitVec.and_append, BitVec.and_append, BitVec.and_append]
  simp [nibble_and_ones]

/-- A word of four nibbles under a mask on the first and the last. -/
theorem mask_op_low (a x y z : BitVec 4) : (a ++ x ++ y ++ z : BitVec 16) &&& 0xF00F#16 = a ++ 0#4 ++ 0#4 ++ z := by
  have h : (0xF00F#16) = 0xF#4 ++ 0#4 ++ 0#4 ++ 0xF#4 := by decide
  rw [h, BitVec.and_append, BitVec.and_append, BitVec.and_append]
  simp [nibble_and_ones]

/-- A word of two nibbles and a byte under a mask on the first nibble and the byte. -/
theorem mask_op_kk (a x : BitVec 4) (b : BitVec 8) : (a ++ x ++ b : BitVec 16) &&& 0xF0FF#16 = a ++ 0#4 ++ b := by
  have h : (0xF0FF#16) = 0xF#4 ++ 0#4 ++ 0xFF#8 := by decide
  rw [h, BitVec.and_append, BitVec.and_append]
  simp [nibble_and_ones, byte_and_ones]

theorem cls (ignored : Nibble) : Statement (.cls ignored) :=
  ⟨⟨"CLS", 0x00E0, 0xF0FF, 0xFFFF⟩, by decide, rfl, (mask_op_kk ..).trans (by decide)⟩

theorem ret (ignored : Nibble) : Statement (.ret ignored) :=
  ⟨⟨"RET", 0x00EE, 0xF0FF, 0xFFFF⟩, by decide, rfl, (mask_op_kk ..).trans (by decide)⟩

theorem jp (nnn : Addr) : Statement (.jp nnn) :=
  ⟨⟨"JP", 0x1000, 0xF000, 0xF000⟩, by decide, rfl, (mask_op ..).trans (by decide)⟩

theorem call (nnn : Addr) : Statement (.call nnn) :=
  ⟨⟨"CALL", 0x2000, 0xF000, 0xF000⟩, by decide, rfl, (mask_op ..).trans (by decide)⟩

theorem seImm (x : Nibble) (kk : Byte) : Statement (.seImm x kk) :=
  ⟨⟨"SE_imm", 0x3000, 0xF000, 0xF000⟩, by decide, rfl, (mask_op_byte ..).trans (by decide)⟩

theorem sneImm (x : Nibble) (kk : Byte) : Statement (.sneImm x kk) :=
  ⟨⟨"SNE_imm", 0x4000, 0xF000, 0xF000⟩, by decide, rfl, (mask_op_byte ..).trans (by decide)⟩

theorem seReg (x y ignored : Nibble) : Statement (.seReg x y ignored) :=
  ⟨⟨"SE_reg", 0x5000, 0xF000, 0xF00F⟩, by decide, rfl, (mask_op_nibbles ..).trans (by decide)⟩

theorem ldImm (x : Nibble) (kk : Byte) : Statement (.ldImm x kk) :=
  ⟨⟨"LD_imm", 0x6000, 0xF000, 0xF000⟩, by decide, rfl, (mask_op_byte ..).trans (by decide)⟩

theorem addImm (x : Nibble) (kk : Byte) : Statement (.addImm x kk) :=
  ⟨⟨"ADD_imm", 0x7000, 0xF000, 0xF000⟩, by decide, rfl, (mask_op_byte ..).trans (by decide)⟩

theorem ldReg (x y : Nibble) : Statement (.ldReg x y) :=
  ⟨⟨"LD_reg", 0x8000, 0xF00F, 0xF00F⟩, by decide, rfl, (mask_op_low ..).trans (by decide)⟩

theorem or (x y : Nibble) : Statement (.or x y) :=
  ⟨⟨"OR", 0x8001, 0xF00F, 0xF00F⟩, by decide, rfl, (mask_op_low ..).trans (by decide)⟩

theorem and (x y : Nibble) : Statement (.and x y) :=
  ⟨⟨"AND", 0x8002, 0xF00F, 0xF00F⟩, by decide, rfl, (mask_op_low ..).trans (by decide)⟩

theorem xor (x y : Nibble) : Statement (.xor x y) :=
  ⟨⟨"XOR", 0x8003, 0xF00F, 0xF00F⟩, by decide, rfl, (mask_op_low ..).trans (by decide)⟩

theorem addReg (x y : Nibble) : Statement (.addReg x y) :=
  ⟨⟨"ADD_reg", 0x8004, 0xF00F, 0xF00F⟩, by decide, rfl, (mask_op_low ..).trans (by decide)⟩

theorem sub (x y : Nibble) : Statement (.sub x y) :=
  ⟨⟨"SUB", 0x8005, 0xF00F, 0xF00F⟩, by decide, rfl, (mask_op_low ..).trans (by decide)⟩

theorem shr (x y : Nibble) : Statement (.shr x y) :=
  ⟨⟨"SHR", 0x8006, 0xF00F, 0xF00F⟩, by decide, rfl, (mask_op_low ..).trans (by decide)⟩

theorem subn (x y : Nibble) : Statement (.subn x y) :=
  ⟨⟨"SUBN", 0x8007, 0xF00F, 0xF00F⟩, by decide, rfl, (mask_op_low ..).trans (by decide)⟩

theorem shl (x y : Nibble) : Statement (.shl x y) :=
  ⟨⟨"SHL", 0x800E, 0xF00F, 0xF00F⟩, by decide, rfl, (mask_op_low ..).trans (by decide)⟩

theorem sneReg (x y ignored : Nibble) : Statement (.sneReg x y ignored) :=
  ⟨⟨"SNE_reg", 0x9000, 0xF000, 0xF00F⟩, by decide, rfl, (mask_op_nibbles ..).trans (by decide)⟩

theorem ldI (nnn : Addr) : Statement (.ldI nnn) :=
  ⟨⟨"LD_I", 0xA000, 0xF000, 0xF000⟩, by decide, rfl, (mask_op ..).trans (by decide)⟩

theorem jpV0 (nnn : Addr) : Statement (.jpV0 nnn) :=
  ⟨⟨"JP_V0", 0xB000, 0xF000, 0xF000⟩, by decide, rfl, (mask_op ..).trans (by decide)⟩

theorem rnd (x : Nibble) (kk : Byte) : Statement (.rnd x kk) :=
  ⟨⟨"RND", 0xC000, 0xF000, 0xF000⟩, by decide, rfl, (mask_op_byte ..).trans (by decide)⟩

theorem drw (x y n : Nibble) : Statement (.drw x y n) :=
  ⟨⟨"DRW", 0xD000, 0xF000, 0xF000⟩, by decide, rfl, (mask_op_nibbles ..).trans (by decide)⟩

theorem skp (x : Nibble) : Statement (.skp x) :=
  ⟨⟨"SKP", 0xE09E, 0xF0FF, 0xF0FF⟩, by decide, rfl, (mask_op_kk ..).trans (by decide)⟩

theorem sknp (x : Nibble) : Statement (.sknp x) :=
  ⟨⟨"SKNP", 0xE0A1, 0xF0FF, 0xF0FF⟩, by decide, rfl, (mask_op_kk ..).trans (by decide)⟩

theorem ldVxDT (x : Nibble) : Statement (.ldVxDT x) :=
  ⟨⟨"LD_Vx_DT", 0xF007, 0xF0FF, 0xF0FF⟩, by decide, rfl, (mask_op_kk ..).trans (by decide)⟩

theorem ldVxK (x : Nibble) : Statement (.ldVxK x) :=
  ⟨⟨"LD_Vx_K", 0xF00A, 0xF0FF, 0xF0FF⟩, by decide, rfl, (mask_op_kk ..).trans (by decide)⟩

theorem ldDT (x : Nibble) : Statement (.ldDT x) :=
  ⟨⟨"LD_DT", 0xF015, 0xF0FF, 0xF0FF⟩, by decide, rfl, (mask_op_kk ..).trans (by decide)⟩

theorem ldST (x : Nibble) : Statement (.ldST x) :=
  ⟨⟨"LD_ST", 0xF018, 0xF0FF, 0xF0FF⟩, by decide, rfl, (mask_op_kk ..).trans (by decide)⟩

theorem addI (x : Nibble) : Statement (.addI x) :=
  ⟨⟨"ADD_I", 0xF01E, 0xF0FF, 0xF0FF⟩, by decide, rfl, (mask_op_kk ..).trans (by decide)⟩

theorem ldF (x : Nibble) : Statement (.ldF x) :=
  ⟨⟨"LD_F", 0xF029, 0xF0FF, 0xF0FF⟩, by decide, rfl, (mask_op_kk ..).trans (by decide)⟩

theorem ldB (x : Nibble) : Statement (.ldB x) :=
  ⟨⟨"LD_B", 0xF033, 0xF0FF, 0xF0FF⟩, by decide, rfl, (mask_op_kk ..).trans (by decide)⟩

theorem ldMemStore (x : Nibble) : Statement (.ldMemStore x) :=
  ⟨⟨"LD_mem_store", 0xF055, 0xF0FF, 0xF0FF⟩, by decide, rfl, (mask_op_kk ..).trans (by decide)⟩

theorem ldMemLoad (x : Nibble) : Statement (.ldMemLoad x) :=
  ⟨⟨"LD_mem_load", 0xF065, 0xF0FF, 0xF0FF⟩, by decide, rfl, (mask_op_kk ..).trans (by decide)⟩

end Sys2Proof.Laws.TablePattern
end

