-- ==== Sys2Proof/Tests/Slice0.lean ====
section
/-! SUPPORT. Small tests: expected results are the vectors of spec/95_test_vectors.md (named in the comments) or the
examples of the instruction's rule; and a witness for every obligation that has hypotheses. -/

namespace Sys2Proof.Tests

open Sys2Proof.Machine

/-! ## WellFormed: each check refuses an ill-formed term, and admits the same term when it does not apply (R109) -/

theorem test_wellFormed_cls : ¬ (Instr.cls 1).WellFormed true ∧ (Instr.cls 1).WellFormed false := by decide
theorem test_wellFormed_ret : ¬ (Instr.ret 0xF).WellFormed true ∧ (Instr.ret 0).WellFormed true := by decide
theorem test_wellFormed_seReg : ¬ (Instr.seReg 1 2 1).WellFormed true ∧ (Instr.seReg 1 2 0).WellFormed true := by decide
theorem test_wellFormed_sneReg : ¬ (Instr.sneReg 0xA 0xB 3).WellFormed true ∧ (Instr.sneReg 0xA 0xB 3).WellFormed false := by
  decide

/-! ## Decoding words written out from R101 and R107 -/

-- op 0110, x 1010, kk 0000_0010 (R117)
theorem test_decode_ldImm : decode false 0b0110_1010_0000_0010 = .known (.ldImm 10 2) := by decide
-- op 1111, x 1010, kk 0010_1001 (R117)
theorem test_decode_ldF : decode false 0b1111_1010_0010_1001 = .known (.ldF 10) := by decide
-- op 0001, nnn 0010_0000_0000 (R117)
theorem test_decode_jp : decode false 0b0001_0010_0000_0000 = .known (.jp 0x200) := by decide
-- op 1000, x 0001, y 0010, n 1110 (DEC11)
theorem test_decode_shl : decode true 0b1000_0001_0010_1110 = .known (.shl 1 2) := by decide
-- op 1101, x 0000, y 0001, n 0101
theorem test_decode_drw : decode true 0b1101_0000_0001_0101 = .known (.drw 0 1 5) := by decide
-- op 1110, x 0011, kk 1010_0001
theorem test_decode_sknp : decode true 0b1110_0011_1010_0001 = .known (.sknp 3) := by decide
-- DEC5 to DEC9: ignored bits
theorem test_decode_ignored_bits :
    decode false 0x01E0 = .known (.cls 1) ∧ decode true 0x01E0 = .unknown ∧
    decode false 0x0FEE = .known (.ret 0xF) ∧ decode true 0x0FEE = .unknown ∧
    decode false 0x5121 = .known (.seReg 1 2 1) ∧ decode true 0x5121 = .unknown ∧
    decode false 0x9AB3 = .known (.sneReg 0xA 0xB 3) ∧ decode true 0x9AB3 = .unknown := by decide
-- DEC3, DEC4, DEC10, DEC12, DEC13: Unknown
theorem test_decode_unknown :
    ([0x0000, 0x0123, 0x8008, 0x8AB9, 0x812A, 0x812F, 0xE000, 0xE19F, 0xF0FF, 0xF066].map fun w => decode false w) =
      List.replicate 10 .unknown := by decide
-- DEC14, DEC15
theorem test_decode_last_rows : decode false 0xFF65 = .known (.ldMemLoad 15) ∧ decode false 0xB123 = .known (.jpV0 0x123) := by
  decide
theorem test_decodeTableWord : decodeTableWord 16 0xF155 = some (.ldMemStore 1) ∧ decodeTableWord 16 0x0000 = none := by decide

/-! Decoding of each row's pattern with all operand fields zero: the 34 constructors (R107, R118). -/

theorem test_decode_rows_low : (opcodeTableLow.map fun row => decode true row.pattern) = [.known (.cls 0), .known (.ret 0),
    .known (.jp 0), .known (.call 0), .known (.seImm 0 0), .known (.sneImm 0 0), .known (.seReg 0 0 0), .known (.ldImm 0 0),
    .known (.addImm 0 0)] := by decide
theorem test_decode_rows_alu : (opcodeTableAlu.map fun row => decode true row.pattern) = [.known (.ldReg 0 0), .known (.or 0 0),
    .known (.and 0 0), .known (.xor 0 0), .known (.addReg 0 0), .known (.sub 0 0), .known (.shr 0 0), .known (.subn 0 0),
    .known (.shl 0 0)] := by decide
theorem test_decode_rows_high : (opcodeTableHigh.map fun row => decode true row.pattern) = [.known (.sneReg 0 0 0),
    .known (.ldI 0), .known (.jpV0 0), .known (.rnd 0 0), .known (.drw 0 0 0), .known (.skp 0), .known (.sknp 0)] := by decide
theorem test_decode_rows_misc : (opcodeTableMisc.map fun row => decode true row.pattern) = [.known (.ldVxDT 0),
    .known (.ldVxK 0), .known (.ldDT 0), .known (.ldST 0), .known (.addI 0), .known (.ldF 0), .known (.ldB 0),
    .known (.ldMemStore 0), .known (.ldMemLoad 0)] := by decide

/-! ## One step on a small state -/

/-- A session of Classic at reset, and one of a strict dialect. -/
def classic : State := State.reset
def strict : State := State.construct (dialectSession .superChip)

/-- Registers by number and value. -/
def withV (s : State) : List (Nibble × Byte) → State
  | [] => s
  | (r, b) :: rs => withV (s.setV r b) rs

/-- The state after one step on an opcode at `PC`. -/
def after (s : State) (w : Nat) : State :=
  match step (s.withFetchWord 16 w) with
  | .next t => t
  | .fault _ => s
  | .refused _ => s

/-- The state after one step as it stands. -/
def moved (s : State) : State :=
  match step s with
  | .next t => t
  | .fault _ => s
  | .refused _ => s

/-- The kind a faulted state shows. -/
def faultKind (s : State) : Option FatalKind :=
  match s.mode with
  | .faulted r => some r.kind
  | .run => none
  | .waitKey _ => none

def withVfOrder (s : State) (o : VfOrder) : State := { s with cfg := { s.cfg with vfOrder := o } }

-- ENG1
theorem test_ldImm : (after classic 0x6A02).getV 10 = 2 ∧ (after classic 0x6A02).pc = 0x202 ∧ (after classic 0x6A02).acc = 6 := by
  decide
-- ENG4: the pc wraps
theorem test_ldImm_wraps_pc : (after { classic with pc := 0xFFE } 0x6007).pc = 0 := by decide
-- ENG2, ENG3
theorem test_unknown_opcode : faultKind (after classic 0x0000) = some .unknownOpcode ∧ (after classic 0x0000).pc = 0x200 := by decide
theorem test_fetch_at_the_top : faultKind (after { classic with pc := 0xFFF } 0x6007) = some .memoryOutOfBounds := by decide
-- AI2, AI3
theorem test_addImm : (after (withV classic [(3, 0xFF), (15, 7)]) 0x7301).getV 3 = 0 ∧
    (after (withV classic [(3, 0xFF), (15, 7)]) 0x7301).getV 15 = 7 := by decide
-- LR1
theorem test_ldReg : (after (withV classic [(2, 0x33)]) 0x8120).getV 1 = 0x33 := by decide
-- B1
theorem test_or : (after (withV classic [(1, 0x0F), (2, 0xF0), (15, 1)]) 0x8121).getV 1 = 0xFF ∧
    (after (withV classic [(1, 0x0F), (2, 0xF0), (15, 1)]) 0x8121).getV 15 = 0 ∧
    (after (withV strict [(1, 0x0F), (2, 0xF0), (15, 1)]) 0x8121).getV 15 = 1 := by decide
-- B5
theorem test_or_into_vf : (after (withV classic [(15, 0x0F), (1, 0xF0)]) 0x8F11).getV 15 = 0 ∧
    (after (withV (withVfOrder classic .resultLast) [(15, 0x0F), (1, 0xF0)]) 0x8F11).getV 15 = 0xFF := by decide
-- B2
theorem test_and : (after (withV classic [(1, 0x3C), (2, 0x0F), (15, 1)]) 0x8122).getV 1 = 0x0C := by decide
-- B3, B4
theorem test_xor : (after (withV classic [(1, 0x3C), (2, 0x0F)]) 0x8123).getV 1 = 0x33 ∧
    (after (withV classic [(1, 0x5A)]) 0x8113).getV 1 = 0 := by decide
-- A1
theorem test_addReg : (after (withV classic [(1, 0xFF), (2, 1)]) 0x8124).getV 1 = 0 ∧
    (after (withV classic [(1, 0xFF), (2, 1)]) 0x8124).getV 15 = 1 := by decide
-- A7
theorem test_addReg_into_vf : (after (withV classic [(15, 0xFF), (1, 1)]) 0x8F14).getV 15 = 1 ∧
    (after (withV (withVfOrder classic .resultLast) [(15, 0xFF), (1, 1)]) 0x8F14).getV 15 = 0 := by decide
-- S1, S2
theorem test_sub : (after (withV classic [(1, 3), (2, 5), (15, 9)]) 0x8125).getV 1 = 0xFE ∧
    (after (withV classic [(1, 3), (2, 5), (15, 9)]) 0x8125).getV 15 = 0 ∧
    (after (withV classic [(1, 5), (2, 5)]) 0x8125).getV 15 = 1 := by decide
-- S6
theorem test_sub_into_vf : (after (withV classic [(15, 5), (1, 3)]) 0x8F15).getV 15 = 1 ∧
    (after (withV (withVfOrder classic .resultLast) [(15, 5), (1, 3)]) 0x8F15).getV 15 = 2 := by decide
-- H1
theorem test_shr : (after (withV strict [(1, 5), (2, 8)]) 0x8126).getV 1 = 2 ∧ (after (withV strict [(1, 5), (2, 8)]) 0x8126).getV 15 = 1 ∧
    (after (withV classic [(1, 5), (2, 8)]) 0x8126).getV 1 = 4 ∧ (after (withV classic [(1, 5), (2, 8)]) 0x8126).getV 15 = 0 := by
  decide
-- H5
theorem test_shr_into_vf : (after (withV strict [(15, 2)]) 0x8F06).getV 15 = 0 ∧
    (after (withV (withVfOrder strict .resultLast) [(15, 2)]) 0x8F06).getV 15 = 1 := by decide
-- N1, N2
theorem test_subn : (after (withV classic [(1, 3), (2, 5)]) 0x8127).getV 1 = 2 ∧ (after (withV classic [(1, 3), (2, 5)]) 0x8127).getV 15 = 1 ∧
    (after (withV classic [(1, 5), (2, 3)]) 0x8127).getV 1 = 0xFE := by decide
-- L3
theorem test_shl : (after (withV classic [(1, 0x11), (2, 0x80)]) 0x812E).getV 1 = 0 ∧
    (after (withV classic [(1, 0x11), (2, 0x80)]) 0x812E).getV 15 = 1 ∧
    (after (withV strict [(1, 0x11), (2, 0x80)]) 0x812E).getV 1 = 0x22 := by decide
-- R1
theorem test_rnd : (after { classic with randomAnswers := [0xB7] } 0xC30F).getV 3 = 7 ∧
    (after { classic with randomAnswers := [0xB7] } 0xC30F).eventLog = [.randomByte 0xB7, .playSound 0] := by decide
-- R2: whatever the free answer is
theorem test_rnd_masked_out : (after classic 0xC300).getV 3 = 0 := by
  show State.randomAnswer _ &&& 0#8 = 0#8
  simp
-- J1, J4
theorem test_jp : (after { classic with pc := 0x202 } 0x1200).pc = 0x200 ∧ (after classic 0x1301).pc = 0x301 := by decide
-- JV1
theorem test_jpV0 : (after (withV classic [(0, 0x10), (2, 1)]) 0xB210).pc = 0x220 ∧ (after (withV strict [(0, 0x10), (2, 1)]) 0xB210).pc = 0x211 := by
  decide
-- JV2
theorem test_jpV0_wraps : (after (withV classic [(0, 0xFF)]) 0xBFFF).pc = 0x0FE := by decide
-- C2
theorem test_call : (after { classic with pc := 0x300, sp := 15 } 0x2400).pc = 0x400 ∧
    (after { classic with pc := 0x300, sp := 15 } 0x2400).stack[15] = 0x302 ∧ (after { classic with pc := 0x300, sp := 15 } 0x2400).sp = 16 := by
  decide
-- C3
theorem test_call_overflow : faultKind (after { classic with pc := 0x300, sp := 16 } 0x2400) = some .stackOverflow := by decide
-- RT1
theorem test_ret : (after { classic with sp := 1, stack := classic.stack.set 0 0x302 } 0x00EE).pc = 0x302 ∧
    (after { classic with sp := 1, stack := classic.stack.set 0 0x302 } 0x00EE).sp = 0 := by decide
-- RT2
theorem test_ret_underflow : faultKind (after classic 0x00EE) = some .stackUnderflow := by decide
-- E1, E2, E8
theorem test_seImm : (after (withV classic [(5, 0x2A)]) 0x352A).pc = 0x204 ∧ (after (withV classic [(5, 0x2A)]) 0x352B).pc = 0x202 ∧
    (after { classic with pc := 0xFFE } 0x3000).pc = 2 := by decide
-- E3
theorem test_sneImm : (after (withV classic [(5, 0x2A)]) 0x452A).pc = 0x202 ∧ (after (withV classic [(5, 0x2A)]) 0x452B).pc = 0x204 := by decide
-- E4, E5
theorem test_seReg : (after (withV classic [(1, 7), (2, 7)]) 0x5120).pc = 0x204 ∧ (after (withV classic [(1, 7), (2, 8)]) 0x5120).pc = 0x202 := by decide
theorem test_sneReg : (after (withV classic [(1, 7), (2, 7)]) 0x9120).pc = 0x202 ∧ (after (withV classic [(1, 7), (2, 8)]) 0x9120).pc = 0x204 := by decide
-- K1, K2, K4
theorem test_skp : (after { withV classic [(3, 10)] with keyAnswers := [true] } 0xE39E).pc = 0x204 ∧
    (after { withV classic [(3, 10)] with keyAnswers := [false] } 0xE39E).pc = 0x202 ∧
    (after { withV classic [(3, 10)] with keyAnswers := [true] } 0xE39E).eventLog = [.isPressed 10 true, .playSound 0] := by decide
theorem test_skp_out_of_range : faultKind (after (withV classic [(3, 0x10)]) 0xE39E) = some .keyOutOfRange := by decide
theorem test_sknp : (after { withV classic [(3, 10)] with keyAnswers := [true] } 0xE3A1).pc = 0x202 ∧
    (after { withV classic [(3, 10)] with keyAnswers := [false] } 0xE3A1).pc = 0x204 := by decide
-- K5
theorem test_sknp_out_of_range : faultKind (after (withV classic [(3, 0xFF)]) 0xE3A1) = some .keyOutOfRange := by decide
-- I2
theorem test_ldI : (after classic 0xAFFF).i = 0xFFF := by decide
-- I3, I4
theorem test_addI : (after { withV classic [(2, 0x20)] with i := 0xFF0 } 0xF21E).i = 0x1010 ∧
    (after { withV classic [(2, 1)] with i := 0xFFFF } 0xF21E).i = 0 := by decide
-- F2, F4
theorem test_ldF : (after (withV classic [(10, 15)]) 0xFA29).i = 75 ∧ (after (withV classic [(10, 0xFF)]) 0xFA29).i = 1275 ∧
    (after { withV classic [(10, 0xFF)] with cfg := { classic.cfg with fontIndex := .lowNibble } } 0xFA29).i = 75 := by decide
-- BCD1, BCD5
theorem test_ldB : (after { withV classic [(0, 254)] with i := 0x300 } 0xF033).mem.readBytes 0x300 3 = [2, 5, 4] ∧
    (after { withV classic [(0, 123)] with i := 0xFFD } 0xF033).mem.readBytes 0xFFD 3 = [1, 2, 3] := by decide
-- BCD6
theorem test_ldB_out_of_bounds : faultKind (after { classic with i := 0xFFE } 0xF033) = some .memoryOutOfBounds := by decide
-- ST1
theorem test_ldMemStore : (after { withV classic [(0, 1), (1, 2)] with i := 0x300 } 0xF155).mem.readBytes 0x300 2 = [1, 2] ∧
    (after { withV classic [(0, 1), (1, 2)] with i := 0x300 } 0xF155).i = 0x302 ∧
    (after { withV strict [(0, 1), (1, 2)] with i := 0x300 } 0xF155).i = 0x300 := by decide
-- ST3
theorem test_ldMemStore_out_of_bounds : faultKind (after { classic with i := 0xFFF } 0xF155) = some .memoryOutOfBounds := by decide
-- LDM1
theorem test_ldMemLoad :
    let s := after { withV classic [(3, 0x99)] with i := 0x300, mem := [(0x300, 2), (0x301, 5), (0x302, 4)] } 0xF265
    s.getV 0 = 2 ∧ s.getV 1 = 5 ∧ s.getV 2 = 4 ∧ s.getV 3 = 0x99 ∧ s.i = 0x303 := by decide
-- LDM4
theorem test_ldMemLoad_out_of_bounds : faultKind (after { classic with i := 0x1000 } 0xF065) = some .memoryOutOfBounds := by decide
-- T1
theorem test_ldVxDT : (after { classic with dt := 0x3C } 0xF307).getV 3 = 0x3C := by decide
-- T3
theorem test_ldDT : (after { withV classic [(0, 5)] with acc := 44 } 0xF015).dt = 4 ∧
    (after { withV classic [(0, 5)] with acc := 44 } 0xF015).eventLog = [.tick 50, .playSound 0] := by decide
-- T5
theorem test_ldST : (after { withV classic [(1, 2)] with acc := 44 } 0xF118).st = 1 ∧
    (after { withV classic [(1, 2)] with acc := 44 } 0xF118).eventLog = [.tick 50, .playSound 50] := by decide
-- T8
theorem test_pace_two_periods :
    let s := State.pace { classic with cfg := { classic.cfg with instrTime := 100 }, dt := 5, st := 1 }
    s.dt = 3 ∧ s.st = 0 ∧ s.acc = 0 ∧ s.eventLog = [.tick 50, .tick 50, .playSound 50] := by decide
-- ENG7
theorem test_ldVxK : (after classic 0xF10A).mode = .waitKey 1 ∧ (after classic 0xF10A).pc = 0x200 ∧ (after classic 0xF10A).eventLog = [] := by
  decide
-- ENG9: the waiting engine with a key pending
theorem test_ldVxK_supplied :
    let t := moved { classic with mode := .waitKey 1, suppliedKeys := [0xC] }
    t.getV 1 = 0xC ∧ t.pc = 0x202 ∧ t.acc = 6 ∧ t.eventLog = [.waitKey 0xC, .playSound 0] := by decide
-- D15
theorem test_cls : (after { classic with video := classic.video.setCell 31 63 true } 0x00E0).video.cell 31 63 = false := by decide
-- D3
theorem test_drw :
    let s := after { withV classic [(0, 63)] with i := 0x300, mem := [(0x300, 0xC0)] } 0xD011
    s.video.cell 0 63 = true ∧ s.video.cell 0 0 = true ∧ s.video.cell 0 1 = false ∧ s.getV 15 = 0 := by decide
-- D7
theorem test_drw_collides :
    let s := after { classic with i := 0x300, mem := [(0x300, 0xC0)], video := classic.video.setCell 0 1 true } 0xD011
    s.video.cell 0 0 = true ∧ s.video.cell 0 1 = false ∧ s.getV 15 = 1 := by decide

/-! ## Host operations and reset -/

theorem test_reset_inv : State.reset.mem.wf = true ∧ State.reset.pc = 0x200 ∧ State.reset.mode = .run := by decide
theorem test_load_refused : loadData [1, 2] 4095 classic = .refused (.loadOutOfBounds 4095 2) := by rfl
-- R345: glyph 2 begins at address 10; R343, R345: the last glyph's last byte
theorem test_font : defaultFont[10] = 0xF0 ∧ defaultFont[79] = 0x80 := by decide
-- R326: a faulted session is not waiting
theorem test_supply_after_fault : supplyKey 7 (after classic 0x00EE) = .refused .notWaiting := by rfl

/-! ## Witnesses: states and operands that meet the hypotheses of each obligation -/

/-- A faulted session, and an engine that waits. -/
def faulted : State := after classic 0x00EE
def waiting : State := after classic 0xF50A

theorem witness_StepRunsDecodedInstruction :
    let s := State.withFetchWord { classic with pc := 4094 } 16 0x6A02
    s.mode = .run ∧ s.pc.toNat + 2 ≤ 4096 ∧
      decode s.cfg.strictDecode (s.mem.read s.pc.toNat ++ s.mem.read (s.pc.toNat + 1)) = .known (.ldImm 0xA 2) := by decide
theorem witness_UnknownOpcodeIsFatal :
    classic.mode = .run ∧ classic.pc.toNat + 2 ≤ 4096 ∧
      decode classic.cfg.strictDecode (classic.fetch classic.pc.toNat) = .unknown := by decide
theorem witness_FetchAndDecodeFaultReports_fetch :
    let s := { classic with pc := 4095 }
    s.mode = .run ∧ 4096 < s.pc.toNat + 2 := by decide
theorem witness_FetchAndDecodeFaultReports_decode :
    let s := { classic with pc := 4094 }
    s.mode = .run ∧ s.pc.toNat + 2 ≤ 4096 ∧ decode s.cfg.strictDecode (s.fetch s.pc.toNat) = .unknown := by decide
theorem witness_FaultedStateIsFinal :
    faulted.mode = .faulted (classic.report .stackUnderflow "RET" (some 0x00EE) .none) := by decide
theorem witness_WaitingEngineIsUnchanged : waiting.mode = .waitKey 5 ∧ waiting.suppliedKeys = [] := by decide
theorem witness_SupplyKeyCompletesTheWait :
    let s := { waiting with suppliedKeys := [15] }
    s.mode = .waitKey 5 ∧ s.suppliedKeys = 15 :: [] := by decide
theorem witness_HostCallsOutsideContract_notWaiting :
    (∀ x, classic.mode ≠ .waitKey x) ∧ (∀ x, faulted.mode ≠ .waitKey x) ∧ 15 < 16 := by decide
theorem witness_HostCallsOutsideContract_key : 16 ≤ 16 := by decide
theorem witness_HostCallsOutsideContract_load : classic.Alive ∧ 4096 < 4096 + ([7] : List Byte).length :=
  ⟨(fun _ h => nomatch h : ∀ r, Mode.run ≠ Mode.faulted r), by decide⟩
theorem witness_HostCallsOutsideContract_over :
    faulted.mode = .faulted (classic.report .stackUnderflow "RET" (some 0x00EE) .none) := by decide
theorem witness_LoadDataCopiesBytes :
    classic.Alive ∧ classic.mem.wf = true ∧ 4094 + ([7, 0] : List Byte).length ≤ 4096 :=
  ⟨(fun _ h => nomatch h : ∀ r, Mode.run ≠ Mode.faulted r), by decide, by decide⟩
theorem witness_ConstructionIsTheResetTable : ∃ t, step classic = .next t := ⟨_, rfl⟩
theorem witness_BootPlacesFontAndProgram :
    79 < 80 ∧ (List.replicate 3584 (0x12 : Byte)).length ≤ 3584 :=
  ⟨by decide, Nat.le_of_eq List.length_replicate⟩
theorem witness_ConstructionMeetsInvariant : (dialectSession .xoChip).Positive := by decide
theorem witness_Inv : State.reset.Inv where
  memory := rfl
  pc := by decide
  stack := by decide
  times := by decide
  acc := by decide
  report := fun _ h => nomatch (h : Mode.run = Mode.faulted _)
theorem witness_StepKeepsInvariant : State.reset.Inv ∧ ∃ t, step State.reset = .next t := ⟨witness_Inv, _, rfl⟩
theorem witness_HostOperationsKeepInvariant : State.reset.Inv ∧ ∃ t, loadData [1] 4095 State.reset = .next t :=
  ⟨witness_Inv, _, rfl⟩
/-- A supply that completes: from the invariant's states an engine that waits is one. -/
theorem witness_HostOperationsKeepInvariant_supply :
    ({ State.reset with mode := .waitKey 5 } : State).Inv ∧ ∃ t, supplyKey 15 { State.reset with mode := .waitKey 5 } = .next t where
  left :=
    { memory := rfl
      pc := by decide
      stack := by decide
      times := by decide
      acc := by decide
      report := fun _ h => nomatch (h : Mode.waitKey 5 = Mode.faulted _) }
  right := ⟨_, rfl⟩
theorem witness_RunCountMeetsItsBudget :
    let s := classic.withFetchWord 16 0x1200
    s.mode = .run ∧ 2 * 1 ≤ 2 ∧ ∃ t, runCount 2 1 s = .next t ∧ t.mode = .run := ⟨rfl, by decide, _, rfl, rfl⟩
theorem witness_DecodeOfEncode : (Instr.cls 0).WellFormed true ∧ (Instr.seReg 1 2 3).WellFormed false := by decide
theorem witness_EncodeOfDecode : decode true 0x00E0 = .known (.cls 0) ∧ decode false 0x0FE0 = .known (.cls 15) := by decide
theorem witness_DecoderAgreesWithTable :
    decode true 0xFF65 = .known (.ldMemLoad 15) ∧ decode true 0x5121 = .unknown ∧
      ∃ row ∈ opcodeTable, row.Selects true 0xFF65 := by decide
/-- `ArithmeticLaws`: its premises only name values. -/
theorem witness_ArithmeticLaws :
    let s := withV classic [(1, 0xFF), (2, 1)]
    0xFF = (s.getV 1).toNat ∧ 1 = (s.getV 2).toNat ∧ 1 = (if s.cfg.shiftUsesVy then 1 else 0xFF) := by decide
theorem witness_BitwiseWithVfReset :
    let s := withV classic [(1, 0x0F), (2, 0xF0)]
    Instr.or 1 2 = .or 1 2 ∧ (0xFF : Byte) = s.getV 1 ||| s.getV 2 ∧ s.Classic ∧ ¬ strict.Classic := by decide
theorem witness_BitwiseWithVfReset_and : (Instr.and 1 2 = .and 1 2) ∧ (0 : Byte) = classic.getV 1 &&& classic.getV 2 := by decide
theorem witness_BitwiseWithVfReset_xor : (Instr.xor 1 2 = .xor 1 2) ∧ (0 : Byte) = classic.getV 1 ^^^ classic.getV 2 := by decide
theorem witness_RandomByteMasked : ({ classic with randomAnswers := [0xB7] } : State).randomAnswers = 0xB7 :: [] := by decide
theorem witness_CallPushesAndJumps :
    ({ classic with sp := 15 } : State).sp.val < 16 ∧ ({ classic with sp := 16 } : State).sp.val = 16 := by decide
theorem witness_ReturnPopsAndJumps :
    ({ classic with sp := 1 } : State).sp.val ≠ 0 ∧ ({ classic with sp := 16 } : State).sp.val ≠ 0 ∧ classic.sp.val = 0 := by decide
theorem witness_CallThenReturn : ({ classic with sp := 15 } : State).sp.val < 16 := by decide
theorem witness_SkipsOnKeys :
    ((withV classic [(3, 15)]).getV 3).toNat ≤ 15 ∧ 15 < ((withV classic [(3, 16)]).getV 3).toNat ∧
      ({ classic with keyAnswers := [true] } : State).keyAnswers = true :: [] ∧ classic.keyAnswers = [] := by decide
theorem witness_IndexArithmetic :
    (classic.cfg.fontIndex = .unmasked ∨ ((withV classic [(0, 16)]).getV 0).toNat ≤ 15) ∧
      ({ classic.cfg with fontIndex := .lowNibble } : SessionConfig).fontIndex = .lowNibble := by decide
theorem witness_DecimalStore :
    let s := { classic with i := 4093 }
    let u := { classic with i := 4094 }
    s.i.toNat + 3 ≤ 4096 ∧ s.mem.wf = true ∧ 4096 < u.i.toNat + 3 := by decide
theorem witness_BlockStore :
    let s := { classic with i := 4080 }
    let u := { strict with i := 4081 }
    s.i.toNat + ((15 : Nibble).toNat + 1) ≤ 4096 ∧ s.mem.wf = true ∧ s.Classic ∧ ¬ u.Classic ∧
      4096 < u.i.toNat + ((15 : Nibble).toNat + 1) := by decide
theorem witness_BlockLoad :
    let s := { classic with i := 4095 }
    s.i.toNat + ((0 : Nibble).toNat + 1) ≤ 4096 ∧ s.Classic ∧ 4096 < s.i.toNat + ((1 : Nibble).toNat + 1) := by decide
theorem witness_NextFetchSeesTheStore :
    let s := { classic with i := 0x202 }
    s.mem.wf = true ∧ 1 ≤ (1 : Nibble).toNat ∧ s.i.toNat = s.pc.toNat + 2 ∧ s.i.toNat + ((1 : Nibble).toNat + 1) ≤ 4096 ∧
      ∃ t, exec (.ldMemStore 1) s = .next t := ⟨by decide, by decide, by decide, by decide, _, rfl⟩
theorem witness_TimersCountDownPerPeriod : classic.cfg.Positive ∧ ∃ t, exec (.ldDT 0) classic = .next t :=
  ⟨by decide, _, rfl⟩
theorem witness_TimersCountDownPerPeriod_step :
    let s := State.withFetchWord { classic with pc := 4094 } 16 0xF015
    s.mode = .run ∧ s.pc.toNat + 2 ≤ 4096 ∧ decode s.cfg.strictDecode (s.fetch s.pc.toNat) = .known (.ldDT 0) ∧
      ∃ t, exec (.ldDT 0) s = .next t ∧ t.mode = .run := ⟨rfl, by decide, by decide, _, rfl, rfl⟩
theorem witness_TimersCountDownPerPeriod_suspends :
    let s := classic.withFetchWord 16 0xF50A
    ∃ t, step s = .next t ∧ t.mode ≠ .run := ⟨_, rfl, by decide⟩
theorem witness_TimersCountDownPerPeriod_wait : waiting.mode = .waitKey 5 ∧ ∃ t, step waiting = .next t := ⟨rfl, _, rfl⟩
theorem witness_TimersCountDownPerPeriod_host :
    (∃ t, supplyKey 15 waiting = .next t) ∧ ∃ t, loadData [1] 4095 classic = .next t := ⟨⟨_, rfl⟩, _, rfl⟩
/-- A run of two steps whose second crosses a period. -/
theorem witness_PacerLawsOverEveryRun :
    let s := State.withFetchWord { classic with acc := 38, dt := 5 } 16 0x1200
    s.cfg.Positive ∧ s.acc < s.cfg.timerPeriod ∧ 1 = (s.acc + 2 * s.cfg.instrTime) / s.cfg.timerPeriod ∧
      ∃ t, Host.Core.run Sys2Proof.core 2 s = .next t ∧ soundCalls t.events = soundCalls s.events + 2 :=
  ⟨by decide, by decide, by decide, _, rfl, rfl⟩
theorem witness_PacerLawsOverEveryRun_timers : TimersUnwritten 1 (classic.withFetchWord 16 0x1200) :=
  ⟨fun _ _ => by decide, fun _ _ => trivial⟩
theorem witness_PaceInClosedForm :
    let s := { classic with acc := 49 }
    s.cfg.Positive ∧ 1 = (s.acc + s.cfg.instrTime) / s.cfg.timerPeriod := by decide
theorem witness_PacerLawsOverManyPacings :
    let s := { classic with acc := 49 }
    s.cfg.Positive ∧ 2 = (s.acc + 10 * s.cfg.instrTime) / s.cfg.timerPeriod ∧ s.acc < s.cfg.timerPeriod := by decide
theorem witness_KeyWaitSuspends :
    let s := classic.withFetchWord 16 0xF50A
    s.mode = .run ∧ s.pc.toNat + 2 ≤ 4096 ∧ decode s.cfg.strictDecode (s.fetch s.pc.toNat) = .known (.ldVxK 5) := by decide
theorem witness_OnlyKeyWaitSuspends :
    let s := classic.withFetchWord 16 0xF50A
    s.mode = .run ∧ ∃ t, step s = .next t ∧ t.mode = .waitKey 5 := ⟨rfl, _, rfl, rfl⟩
theorem witness_DrawSprite :
    let s := { classic with i := 4095 }
    s.i.toNat + (1 : Nibble).toNat ≤ 4096 ∧ 4096 < s.i.toNat + (2 : Nibble).toNat := by decide
/-- A covered cell, and one that is not: the two cases of `DrawSprite` and `DrawTwiceRestores`. -/
theorem witness_DrawSprite_covers :
    SpriteCovers 63 0 1 (fun _ => 0xC0) 0 0 ∧ ¬ SpriteCovers 63 0 0 (fun _ => 0xC0) 0 0 := by
  refine ⟨⟨0, 1, by decide, by decide, by decide, by decide, by decide⟩, ?_⟩
  rintro ⟨r, c, h, -⟩
  exact absurd h (Nat.not_lt_zero r)
/-- A hit, and none: the two flag clauses of `DrawSprite`. -/
theorem witness_DrawSprite_hit :
    (∃ r c, SpriteCovers 63 0 1 (fun _ => 0xC0) r c ∧ (classic.video.setCell 0 0 true).cell r c = true) ∧
      ¬ ∃ r c, SpriteCovers 63 0 0 (fun _ => 0xC0) r c ∧ classic.video.cell r c = true := by
  refine ⟨⟨0, 0, witness_DrawSprite_covers.1, by decide⟩, ?_⟩
  rintro ⟨r, c, ⟨j, -, h, -⟩, -⟩
  exact absurd h (Nat.not_lt_zero j)
theorem witness_DrawTwiceRestores :
    let s := { classic with i := 4081 }
    (0 : Nibble) ≠ 15 ∧ (1 : Nibble) ≠ 15 ∧ s.i.toNat + (15 : Nibble).toNat ≤ 4096 := by decide
theorem witness_RenderOnlyByDisplay :
    classic.mode = .run ∧ (∃ t, exec (.drw 0 1 1) classic = .next t ∧ t.mode = .run) ∧ ∃ t, exec (.jp 0) classic = .next t :=
  ⟨rfl, ⟨_, rfl, rfl⟩, _, rfl⟩
theorem witness_GeneralRegisterWriters : ∃ t, exec (.ldImm 3 7) classic = .next t ∧ t.getV 3 ≠ classic.getV 3 :=
  ⟨_, rfl, by decide⟩
theorem witness_GeneralRegisterWriters_key : ∃ t, supplyKey 7 waiting = .next t ∧ t.getV 5 ≠ waiting.getV 5 :=
  ⟨_, rfl, by decide⟩
theorem witness_FrameOfEveryInstruction : ∃ t, exec (.ldB 0) { classic with i := 0x300 } = .next t := ⟨_, rfl⟩
theorem witness_FatalConditionsExactly : classic.Alive ∧ ∃ t, exec (.call 0) classic = .next t :=
  ⟨(fun _ h => nomatch h : ∀ r, Mode.run ≠ Mode.faulted r), _, rfl⟩
theorem witness_FatalInstructionWritesNothing :
    classic.Alive ∧ ∃ t r, exec (.ret 0) classic = .next t ∧ t.mode = .faulted r :=
  ⟨(fun _ h => nomatch h : ∀ r, Mode.run ≠ Mode.faulted r), _, _, rfl, rfl⟩
theorem witness_OneCallPerExecutePhase : ∃ t, exec (.rnd 3 0) classic = .next t := ⟨_, rfl⟩
theorem witness_ExecIgnoresSoundTimerAndAccumulator : ∃ t, exec (.ldVxDT 3) classic = .next t := ⟨_, rfl⟩

end Sys2Proof.Tests
end

/-! PROOFS. The engine cycle: what a step of a running engine does when its opcode is no instruction (R108, R132). -/

namespace Sys2Proof.Machine

/-- A running engine's move is fetch, decode, execute and pace, whatever keys are pending (R130). -/
theorem step_of_run {s : State} (hrun : s.mode = .run) : step s = runStep s := by
  simp only [step, sessionStep, engineStep, hrun]

/-- A fetch inside memory whose opcode is Unknown raises `UnknownOpcode` with that opcode, and nothing is paced (R132). -/
theorem runStep_of_unknown {s : State} (hpc : s.pc.toNat + 2 ≤ memSize)
    (hdec : decode s.cfg.strictDecode (s.fetch s.pc.toNat) = .unknown) :
    runStep s = .next (s.raiseUnknown (s.fetch s.pc.toNat)) := by
  have hr : inRange s.pc.toNat 2 = true := (inRange_iff ..).2 hpc
  simp only [runStep, hr, if_true, hdec]

/-- Raising `UnknownOpcode` ends the session under the name UNKNOWN, with the opcode in the report (R108, R304). -/
theorem raiseUnknown_endsSession (s : State) (w : Word) :
    EndsSession s (s.raiseUnknown w) .unknownOpcode 1 "UNKNOWN" (some w) .none :=
  enterFault_endsSession s .unknownOpcode "UNKNOWN" (some w) .none

/-- Settles O2: the step is the raise at decode, and entering the fault state writes only the mode and the events. -/
theorem unknownOpcodeIsFatal : Obligations.UnknownOpcodeIsFatal := by
  intro s hrun hpc hdec
  obtain ⟨r, hmode, -, hframe, hkind, -, -, hopcode, -⟩ := raiseUnknown_endsSession s (s.fetch s.pc.toNat)
  exact ⟨_, r, (step_of_run hrun).trans (runStep_of_unknown hpc hdec), hmode, hkind, hopcode, hframe⟩

end Sys2Proof.Machine

/-! PROOFS. Register loads: what an instruction of class `Seq` that writes one general register leaves (R134, R192). -/

namespace Sys2Proof.Machine

/-- Top nibble 6 alone selects `LD Vx, byte`, under either setting of `STRICT_DECODE` (R107). -/
theorem decode_ldImm (strict : Bool) (x : Nibble) (kk : Byte) :
    decode strict (0x6#4 ++ x ++ kk) = .known (.ldImm x kk) := by
  have hop : (fieldOp (0x6#4 ++ x ++ kk : Word)).toNat = 0x6 := by simp only [fieldOp_byte, BitVec.toNat_ofNat]
  simp only [decode, hop, fieldX_byte, fieldKK_byte]

/-- `LD Vx, byte` writes the register and falls through to the next instruction (R192). -/
theorem exec_ldImm (s : State) (x : Nibble) (kk : Byte) : exec (.ldImm x kk) s = .next (s.setV x kk).seq := rfl

section SetVThenSeq
variable (s : State) (x : Nibble) (b : Byte)

theorem setV_seq_getV_self : (s.setV x b).seq.getV x = b := by
  simp only [State.seq_eq, State.jump_getV, getV_setV_self]

theorem setV_seq_onlyV : OnlyV x s (s.setV x b).seq := by
  intro r hr
  simp only [State.seq_eq, State.jump_getV, getV_setV_ne s hr b]

theorem setV_seq_advanced : Advanced 1 s (s.setV x b).seq := advanced_of_pc rfl

theorem setV_seq_changes : ChangesOnly [.v, .pc] s (s.setV x b).seq := by
  intro p hp
  cases p <;> simp_all [Part.Same]

end SetVThenSeq

/-- Settles O22: the register write and the advance of `PC` each leave the other's part, and all the rest, alone. -/
theorem loadImmediate : Obligations.LoadImmediate := by
  intro strict s x kk
  exact ⟨decode_ldImm strict x kk, _, exec_ldImm s x kk, setV_seq_getV_self s x kk, setV_seq_onlyV s x kk,
    setV_seq_advanced s x kk, setV_seq_changes s x kk⟩

end Sys2Proof.Machine

/-! PROOFS. The video sink: which execute phases hand it a grid, and which one (R280, R285). -/

namespace Sys2Proof.Machine

/-- `CLS` has one branch: clear the grid, render it, fall through (R280). -/
theorem exec_cls (s : State) (z : Nibble) :
    exec (.cls z) s = .next (State.render { s with video := Grid.clear }).seq := rfl

/-- Moving `PC` on after a `Render` leaves the rendered grid the state's own and the sink's newest (R324). -/
theorem renders_render_seq (s : State) : renders s.render.seq.events = s.render.seq.video :: renders s.events := rfl

/-- A report is no `Render`: the sink gets nothing when the session ends (R305). -/
theorem renders_raise (s : State) (kind : FatalKind) (i : Instr) (extra : Extra) :
    renders (s.raise kind i extra).events = renders s.events := rfl

theorem raise_mode_ne_run (s : State) (kind : FatalKind) (i : Instr) (extra : Extra) :
    (s.raise kind i extra).mode ≠ .run := by
  simp only [State.raise_eq, State.enterFault_mode, ne_eq, reduceCtorEq, not_false_eq_true]

theorem renders_askPressed (s : State) (k : Nibble) : renders (s.askPressed k).events = renders s.events := rfl

theorem writeRF_events (s : State) (x : Nibble) (result flag : Byte) :
    (s.writeRF x result flag).events = s.events :=
  writeRF_changes s x result flag .events (by decide)

theorem loadRegs_events (s : State) (bs : List Byte) (j : Nat) : (s.loadRegs j bs).events = s.events :=
  loadRegs_changes s bs j .events (by decide)

theorem writeBitwise_events (s : State) (x : Nibble) (result : Byte) : (writeBitwise s x result).events = s.events := by
  unfold writeBitwise
  split
  · exact writeRF_events ..
  · rfl

/-- A `DRW` that completes has passed its range check (R281). -/
theorem drw_inRange_of_run {s t : State} {x y n : Nibble} (h : exec (.drw x y n) s = .next t) (hrun : t.mode = .run) :
    s.i.toNat + n.toNat ≤ memSize := by
  by_contra hout
  rw [exec_drw_of_outside s x y n (Nat.lt_of_not_le hout)] at h
  cases h
  exact raise_mode_ne_run _ _ _ _ hrun

/-- To compare the renders of an execute phase's answer it is enough to compare those of the state the phase is known to
give. -/
theorem renders_eq_of_exec {i : Instr} {s t u : State} (h : exec i s = .next t) (hu : exec i s = .next u)
    (hr : renders u.events = renders s.events) : renders t.events = renders s.events := by
  rw [hu] at h
  cases h
  exact hr

/-- Every instruction but `CLS` and `DRW` leaves the video sink alone, on each branch of its execute phase (R285). -/
theorem renders_exec_of_not_display {i : Instr} {s t : State} (h : exec i s = .next t) (hcls : ∀ z, i ≠ .cls z)
    (hdrw : ∀ x y n, i ≠ .drw x y n) : renders t.events = renders s.events := by
  cases i with
  | cls z => exact absurd rfl (hcls z)
  | drw x y n => exact absurd rfl (hdrw x y n)
  | ret z =>
    by_cases hsp : s.sp.val = 0
    · exact renders_eq_of_exec h (exec_ret_of_empty s z hsp) (renders_raise ..)
    · exact renders_eq_of_exec h (exec_ret_of_ne s z hsp) rfl
  | call nnn =>
    by_cases hsp : s.sp.val = stackDepth
    · exact renders_eq_of_exec h (exec_call_of_full s nnn hsp) (renders_raise ..)
    · exact renders_eq_of_exec h (exec_call_of_lt s nnn (Nat.lt_of_le_of_ne (Nat.le_of_lt_succ s.sp.isLt) hsp)) rfl
  | skp x =>
    rcases Nat.lt_or_ge 15 (s.getV x).toNat with hout | hkey
    · exact renders_eq_of_exec h (exec_skp_of_not_key s x hout) (renders_raise ..)
    · exact renders_eq_of_exec h (exec_skp_of_key s x hkey) (renders_askPressed ..)
  | sknp x =>
    rcases Nat.lt_or_ge 15 (s.getV x).toNat with hout | hkey
    · exact renders_eq_of_exec h (exec_sknp_of_not_key s x hout) (renders_raise ..)
    · exact renders_eq_of_exec h (exec_sknp_of_key s x hkey) (renders_askPressed ..)
  | ldB x =>
    rcases Nat.lt_or_ge memSize (s.i.toNat + 3) with hout | hin
    · exact renders_eq_of_exec h (exec_ldB_of_outside s x hout) (renders_raise ..)
    · exact renders_eq_of_exec h (exec_ldB_of_inRange s x hin) rfl
  | ldMemStore x =>
    rcases Nat.lt_or_ge memSize (s.i.toNat + (x.toNat + 1)) with hout | hin
    · exact renders_eq_of_exec h (exec_ldMemStore_of_outside s x hout) (renders_raise ..)
    · exact renders_eq_of_exec h (exec_ldMemStore_of_inRange s x hin) rfl
  | ldMemLoad x =>
    rcases Nat.lt_or_ge memSize (s.i.toNat + (x.toNat + 1)) with hout | hin
    · exact renders_eq_of_exec h (exec_ldMemLoad_of_outside s x hout) (renders_raise ..)
    · exact renders_eq_of_exec h (exec_ldMemLoad_of_inRange s x hin) (congrArg renders (loadRegs_events ..))
  | or x y | and x y | xor x y => exact renders_eq_of_exec h rfl (congrArg renders (writeBitwise_events ..))
  | addReg x y | sub x y | shr x y | subn x y | shl x y =>
    exact renders_eq_of_exec h rfl (congrArg renders (writeRF_events ..))
  | jp | seImm | sneImm | seReg | sneReg | jpV0 | ldImm | addImm | ldReg | rnd | ldI | addI | ldF | ldVxDT | ldVxK | ldDT
  | ldST => exact renders_eq_of_exec h rfl rfl

/-- Settles O48: the two display instructions end in `Render` of the grid they leave, a `DRW` because completing it means
that its range check passed; the other instructions are a case each. -/
theorem renderOnlyByDisplay : Obligations.RenderOnlyByDisplay := by
  intro i s t _ h
  refine ⟨?_, fun ⟨hcls, hdrw⟩ => renders_exec_of_not_display h hcls hdrw⟩
  rintro (⟨z, rfl⟩ | ⟨⟨x, y, n, rfl⟩, hrun⟩)
  · cases (exec_cls s z).symm.trans h
    exact renders_render_seq _
  · cases (exec_drw_of_inRange s x y n (drw_inRange_of_run h hrun)).symm.trans h
    exact renders_render_seq _

end Sys2Proof.Machine

/-! PROOFS. What an execute phase can do, said once: it raises its own fatal condition, it suspends, or it has an effect and
moves `PC` (R134, R305). The rules about every instruction follow from it. -/

namespace Sys2Proof.Machine

/-! ## Events that are not the pacer's -/

/-- The call is not one that `pace()` makes (R144, R146). -/
def Event.NotPacer (e : Event) : Prop := (∀ p, e ≠ .tick p) ∧ ∀ d, e ≠ .playSound d

section NotPacer
variable {e : Event} (h : e.NotPacer) (es : List Event)
include h

theorem tickCount_cons_of_notPacer : tickCount (e :: es) = tickCount es := by
  cases e with
  | tick p => exact absurd rfl (h.1 p)
  | render | isPressed | waitKey | randomByte | playSound | fault => rfl

theorem soundTotal_cons_of_notPacer : soundTotal (e :: es) = soundTotal es := by
  cases e with
  | playSound d => exact absurd rfl (h.2 d)
  | render | isPressed | waitKey | randomByte | tick | fault => rfl

theorem soundCalls_cons_of_notPacer : soundCalls (e :: es) = soundCalls es := by
  cases e with
  | playSound d => exact absurd rfl (h.2 d)
  | render | isPressed | waitKey | randomByte | tick | fault => rfl

end NotPacer

/-! ## Frames -/

theorem ChangesOnly.mono {ps qs : List Part} {s t : State} (h : ChangesOnly ps s t) (hsub : ps ⊆ qs) :
    ChangesOnly qs s t := fun p hp => h p fun hmem => hp (hsub hmem)

theorem Part.Same.trans {p : Part} {s t u : State} (hst : p.Same s t) (htu : p.Same t u) : p.Same s u := by
  cases p <;> simp_all [Part.Same]

theorem ChangesOnly.trans {ps : List Part} {s t u : State} (hst : ChangesOnly ps s t) (htu : ChangesOnly ps t u) :
    ChangesOnly ps s u := fun p hp => (hst p hp).trans (htu p hp)

theorem ChangesOnly.refl (ps : List Part) (s : State) : ChangesOnly ps s s := by
  intro p _
  cases p <;> simp [Part.Same]

theorem jump_changes (s : State) (n : Nat) : ChangesOnly [.pc] s (s.jump n) := by
  intro p hp
  cases p <;> simp_all [Part.Same]

theorem setV_changes (s : State) (x : Nibble) (b : Byte) : ChangesOnly [.v] s (s.setV x b) := by
  intro p hp
  cases p <;> simp_all [Part.Same]

theorem setI_changes (s : State) (n : Nat) : ChangesOnly [.i] s (s.setI n) := by
  intro p hp
  cases p <;> simp_all [Part.Same]

theorem askPressed_changes (s : State) (k : Nibble) : ChangesOnly [.events, .keyAnswers, .draws] s (s.askPressed k) := by
  intro p hp
  cases p <;> simp_all [Part.Same]

theorem askRandom_changes (s : State) : ChangesOnly [.events, .randomAnswers, .draws] s s.askRandom := by
  intro p hp
  cases p <;> simp_all [Part.Same]

theorem enterFault_changes (s : State) (r : Report) : ChangesOnly [.mode, .events] s (s.enterFault r) := by
  intro p hp
  cases p <;> simp_all [Part.Same]

/-- A store changes memory alone. -/
theorem mem_changes (s : State) (m : Memory) : ChangesOnly [.mem] s { s with mem := m } := by
  intro p hp
  cases p <;> simp_all [Part.Same, State.getV]

theorem pushedState_changes (s : State) (w : Word) (h : s.sp.val < stackDepth) :
    ChangesOnly [.sp, .stack] s (pushedState s w h) := by
  intro p hp
  cases p <;> simp_all [Part.Same, pushedState, State.getV]

theorem poppedState_changes (s : State) : ChangesOnly [.sp] s (poppedState s) := by
  intro p hp
  cases p <;> simp_all [Part.Same, poppedState, State.getV]

/-- Keeping a grid and emitting one call writes those two parts alone. -/
theorem render_changes (s : State) (g : Grid) : ChangesOnly [.video, .events] s (State.render { s with video := g }) := by
  intro p hp
  cases p <;> simp_all [Part.Same, State.getV]

/-- What a `DRW` that completes writes before it falls through. -/
theorem drawn_changes (s : State) (g : Grid) (b : Byte) :
    ChangesOnly [.v, .video, .events] s (State.render (State.setV { s with video := g } vf b)) :=
  ((setV_changes s vf b).mono (by simp)).trans ((render_changes (s.setV vf b) g).mono (by simp))

theorem dt_changes (s : State) (b : Byte) : ChangesOnly [.dt] s { s with dt := b } := by
  intro p hp
  cases p <;> simp_all [Part.Same, State.getV]

theorem st_changes (s : State) (b : Byte) : ChangesOnly [.st] s { s with st := b } := by
  intro p hp
  cases p <;> simp_all [Part.Same, State.getV]

theorem suspend_changes (s : State) (x : Nibble) : ChangesOnly [.mode] s { s with mode := .waitKey x } := by
  intro p hp
  cases p <;> simp_all [Part.Same, State.getV]

/-! ## Writes of the register file that keep memory, stack, mode and events as they are, not only as they read -/

theorem writeRF_eq_setV_setV (s : State) (x : Nibble) (result flag : Byte) :
    ∃ (a b : Nibble) (va vb : Byte), s.writeRF x result flag = (s.setV a va).setV b vb := by
  cases ho : s.cfg.vfOrder
  · exact ⟨x, vf, result, flag, by simp only [State.writeRF, ho]⟩
  · exact ⟨vf, x, flag, result, by simp only [State.writeRF, ho]⟩

@[simp] theorem writeRF_mem (s : State) (x : Nibble) (result flag : Byte) : (s.writeRF x result flag).mem = s.mem := by
  obtain ⟨a, b, va, vb, h⟩ := writeRF_eq_setV_setV s x result flag
  rw [h]; rfl

@[simp] theorem loadRegs_mem (s : State) (bs : List Byte) (j : Nat) : (s.loadRegs j bs).mem = s.mem := by
  induction bs generalizing s j with
  | nil => rfl
  | cons b bs ih => exact ih (s.setV (BitVec.ofNat 4 j) b) (j + 1)

/-- `WriteRF` writes the destination and VF, no other register (R190). -/
theorem getV_writeRF_ne {s : State} {x r : Nibble} {result flag : Byte}
    (h : (s.writeRF x result flag).getV r ≠ s.getV r) : r = x ∨ r = vf := by
  by_contra hr
  obtain ⟨hx, hvf⟩ := not_or.1 hr
  exact h ((writeRF_wrote s x result flag).others r hx hvf)

/-! ## The effect of an instruction that completes -/

/-- What `u` is to `s` when `u` is `s` with all that the instruction does but the move of `PC`: the frame, the registers of
R44's table, at most one call (D30), and memory, stack and mode as the invariant needs them. -/
structure Effect (i : Instr) (s u : State) : Prop where
  frame  : ChangesOnly (partsWritten i) s u
  regs   : ∀ r, u.getV r ≠ s.getV r → MayWriteV s.cfg.dialect r i := by exact fun _ h => absurd rfl h
  mode   : u.mode = s.mode := by rfl
  call   : u.events = s.events ∨ ∃ e, e.NotPacer ∧ u.events = e :: s.events := by exact .inl rfl
  memory : s.mem.wf = true → u.mem.wf = true := by exact id
  stack  : (∀ (k : Nat) (h : k < 16), s.stack[k].toNat < memSize) →
    ∀ (k : Nat) (h : k < 16), u.stack[k].toNat < memSize := by exact id

namespace Effect
variable {i : Instr} {s : State}

/-- The instructions that only move `PC`. -/
theorem refl (i : Instr) (s : State) : Effect i s s := { frame := .refl _ s }

theorem setV {x : Nibble} (b : Byte) (hparts : .v ∈ partsWritten i) (hx : MayWriteV s.cfg.dialect x i) :
    Effect i s (s.setV x b) where
  frame := (setV_changes s x b).mono (by simpa using hparts)
  regs r hr := by
    by_cases hrx : r = x
    · exact hrx ▸ hx
    · exact absurd (getV_setV_ne s hrx b) hr

theorem setI (n : Nat) (hparts : .i ∈ partsWritten i) : Effect i s (s.setI n) where
  frame := (setI_changes s n).mono (by simpa using hparts)

theorem writeRF {x : Nibble} (result flag : Byte) (hparts : .v ∈ partsWritten i)
    (hw : ∀ r, r = x ∨ r = vf → MayWriteV s.cfg.dialect r i) : Effect i s (s.writeRF x result flag) where
  frame := (writeRF_changes s x result flag).mono (by simpa using hparts)
  regs r hr := hw r (getV_writeRF_ne hr)
  mode := writeRF_changes s x result flag .mode (by decide)
  call := .inl (writeRF_events s x result flag)
  memory h := by rwa [writeRF_mem]
  stack h := by rwa [writeRF_changes s x result flag .stack (by decide)]

/-- `OR`, `AND` and `XOR` write VF beside the destination in Classic only (R195 to R197). -/
theorem writeBitwise {x : Nibble} (result : Byte) (hparts : .v ∈ partsWritten i)
    (hw : ∀ r, (r = x ∨ (r = vf ∧ s.cfg.dialect = .classic)) → MayWriteV s.cfg.dialect r i) :
    Effect i s (writeBitwise s x result) := by
  unfold Machine.writeBitwise
  split
  · rename_i hq
    have hd : s.cfg.dialect = .classic := by cases hd : s.cfg.dialect <;> simp_all [vfReset]
    exact writeRF result _ hparts fun r hr => hw r (hr.imp_right fun h => ⟨h, hd⟩)
  · exact setV result hparts (hw x (.inl rfl))

/-- A block store inside the address space (R233, R234). -/
theorem store {bs : List Byte} (hparts : .mem ∈ partsWritten i) (h : s.i.toNat + bs.length ≤ memSize) :
    Effect i s { s with mem := s.mem.writeBytes s.i.toNat bs } where
  frame := (mem_changes s _).mono (by simpa using hparts)
  memory hm := writeBytes_wf hm h

/-- `I` moved on after another effect (R236). -/
theorem thenSetI {u : State} (h : Effect i s u) (n : Nat) (hparts : .i ∈ partsWritten i) : Effect i s (u.setI n) where
  frame := h.frame.trans ((setI_changes u n).mono (by simpa using hparts))
  regs := h.regs
  mode := h.mode
  call := h.call
  memory := h.memory
  stack := h.stack

/-- `CALL` pushes an address below 4096 (R161). -/
theorem push (nnn : Addr) (h : s.sp.val < stackDepth) : Effect (.call nnn) s (pushedState s (returnAddress s) h) where
  frame := (pushedState_changes s _ h).mono (by simp [partsWritten])
  stack hst k hk := by
    have hret : (returnAddress s).toNat < memSize := by simp only [returnAddress, BitVec.toNat_ofNat, memSize]; omega
    simp only [pushedState, Vector.getElem_set]
    split
    · exact hret
    · exact hst k hk

theorem pop (z : Nibble) (s : State) : Effect (.ret z) s (poppedState s) where
  frame := (poppedState_changes s).mono (by simp [partsWritten])

theorem askPressed (k : Nibble) (hparts : [.events, .keyAnswers, .draws] ⊆ partsWritten i) :
    Effect i s (s.askPressed k) where
  frame := (askPressed_changes s k).mono hparts
  call := .inr ⟨.isPressed k _, ⟨nofun, nofun⟩, rfl⟩

theorem rnd (x : Nibble) (kk b : Byte) (s : State) : Effect (.rnd x kk) s (s.askRandom.setV x b) where
  frame := ((askRandom_changes s).mono (by simp [partsWritten])).trans
    ((setV_changes s.askRandom x b).mono (by simp [partsWritten]))
  regs r hr := by
    by_contra hx
    exact hr (getV_setV_ne s.askRandom hx b)
  call := .inr ⟨.randomByte _, ⟨nofun, nofun⟩, rfl⟩

theorem cls (z : Nibble) (s : State) : Effect (.cls z) s (State.render { s with video := Grid.clear }) where
  frame := (render_changes s _).mono (by simp [partsWritten])
  call := .inr ⟨.render _, ⟨nofun, nofun⟩, rfl⟩

theorem drw (x y n : Nibble) (s : State) (g : Grid) (b : Byte) :
    Effect (.drw x y n) s (State.render (State.setV { s with video := g } vf b)) where
  frame := (drawn_changes s g b).mono (by simp [partsWritten])
  regs r hr := by
    by_contra hx
    exact hr (getV_setV_ne s hx b)
  call := .inr ⟨.render _, ⟨nofun, nofun⟩, rfl⟩

theorem loadRegs (x : Nibble) {bs : List Byte} (h : bs.length = x.toNat + 1) :
    Effect (.ldMemLoad x) s (s.loadRegs 0 bs) where
  frame := (loadRegs_changes s bs 0).mono (by simp [partsWritten])
  regs r hr := by
    have hx := x.isLt
    by_contra hout
    simp only [MayWriteV] at hout
    have hnot : ¬(0 ≤ r.toNat ∧ r.toNat < 0 + bs.length) := by omega
    exact hr ((loadRegs_getV s bs 0 (by omega) r).trans (dif_neg hnot))
  mode := loadRegs_changes s bs 0 .mode (by decide)
  call := .inl (loadRegs_events s bs 0)
  memory hm := by rwa [loadRegs_mem]
  stack hst := by rwa [loadRegs_changes s bs 0 .stack (by decide)]

end Effect

/-! ## The execute phase -/

/-- An instruction whose own check fails raises, and does nothing else (R301, R305). -/
theorem exec_of_fatal {i : Instr} {s : State} (h : FatalCondition s i) :
    ∃ kind extra, exec i s = .next (s.raise kind i extra) := by
  cases i with
  | call nnn => exact ⟨_, _, exec_call_of_full s nnn h⟩
  | ret z => exact ⟨_, _, exec_ret_of_empty s z h⟩
  | skp x => exact ⟨_, _, exec_skp_of_not_key s x h⟩
  | sknp x => exact ⟨_, _, exec_sknp_of_not_key s x h⟩
  | drw x y n => exact ⟨_, _, exec_drw_of_outside s x y n h⟩
  | ldB x => exact ⟨_, _, exec_ldB_of_outside s x h⟩
  | ldMemStore x => exact ⟨_, _, exec_ldMemStore_of_outside s x h⟩
  | ldMemLoad x => exact ⟨_, _, exec_ldMemLoad_of_outside s x h⟩
  | cls | jp | seImm | sneImm | seReg | sneReg | ldImm | addImm | ldReg | or | and | xor | addReg | sub | shr | subn | shl
  | ldI | jpV0 | rnd | ldVxDT | ldVxK | ldDT | ldST | addI | ldF => exact h.elim

/-- An instruction whose check passes, or that has none, has its effect and then moves `PC`; `LD Vx, K` alone does not. -/
theorem exec_of_not_fatal {i : Instr} {s : State} (h : ¬ FatalCondition s i) (hk : ∀ x, i ≠ .ldVxK x) :
    ∃ u n, exec i s = .next (u.jump n) ∧ Effect i s u := by
  cases i with
  | ldVxK x => exact absurd rfl (hk x)
  | jp | jpV0 | seImm | sneImm | seReg | sneReg => exact ⟨s, _, rfl, .refl _ s⟩
  | ldImm x | addImm x | ldReg x | ldVxDT x => exact ⟨s.setV x _, _, rfl, .setV _ (by simp [partsWritten]) rfl⟩
  | addReg x | sub x | shr x | subn x | shl x =>
    exact ⟨s.writeRF x _ _, _, rfl, .writeRF _ _ (by simp [partsWritten]) fun _ hr => hr⟩
  | or x | and x | xor x => exact ⟨writeBitwise s x _, _, rfl, .writeBitwise _ (by simp [partsWritten]) fun _ hr => hr⟩
  | ldI | addI | ldF => exact ⟨s.setI _, _, rfl, .setI _ (by simp [partsWritten])⟩
  | ldDT x => exact ⟨{ s with dt := s.getV x }, _, rfl, { frame := (dt_changes s _).mono (by simp [partsWritten]) }⟩
  | ldST x => exact ⟨{ s with st := s.getV x }, _, rfl, { frame := (st_changes s _).mono (by simp [partsWritten]) }⟩
  | rnd x kk => exact ⟨_, _, rfl, .rnd x kk _ s⟩
  | cls z => exact ⟨_, _, rfl, .cls z s⟩
  | call nnn =>
    have hlt : s.sp.val < stackDepth := Nat.lt_of_le_of_ne (Nat.le_of_lt_succ s.sp.isLt) h
    exact ⟨_, _, exec_call_of_lt s nnn hlt, .push nnn hlt⟩
  | ret z => exact ⟨_, _, exec_ret_of_ne s z h, .pop z s⟩
  | skp x => exact ⟨_, _, exec_skp_of_key s x (Nat.le_of_not_lt h), .askPressed _ (by simp [partsWritten])⟩
  | sknp x => exact ⟨_, _, exec_sknp_of_key s x (Nat.le_of_not_lt h), .askPressed _ (by simp [partsWritten])⟩
  | drw x y n => exact ⟨_, _, exec_drw_of_inRange s x y n (Nat.le_of_not_lt h), .drw x y n s _ _⟩
  | ldB x =>
    have hin : s.i.toNat + 3 ≤ memSize := Nat.le_of_not_lt h
    exact ⟨_, _, exec_ldB_of_inRange s x hin, .store (by simp [partsWritten]) hin⟩
  | ldMemStore x =>
    have hin : s.i.toNat + (x.toNat + 1) ≤ memSize := Nat.le_of_not_lt h
    exact ⟨_, _, exec_ldMemStore_of_inRange s x hin,
      (Effect.store (by simp [partsWritten]) (by simpa [registerBlock] using hin)).thenSetI _ (by simp [partsWritten])⟩
  | ldMemLoad x =>
    exact ⟨_, _, exec_ldMemLoad_of_inRange s x (Nat.le_of_not_lt h),
      (Effect.loadRegs x (readBytes_length ..)).thenSetI _ (by simp [partsWritten])⟩

/-- Everything an execute phase can do: raise its fatal condition, suspend the engine, or complete. -/
theorem exec_cases {i : Instr} {s t : State} (h : exec i s = .next t) :
    (FatalCondition s i ∧ ∃ kind extra, t = s.raise kind i extra) ∨
    (∃ x, i = .ldVxK x ∧ t = { s with mode := .waitKey x }) ∨
    (¬ FatalCondition s i ∧ ∃ u n, .pc ∈ partsWritten i ∧ Effect i s u ∧ t = u.jump n) := by
  by_cases hf : FatalCondition s i
  · obtain ⟨kind, extra, he⟩ := exec_of_fatal hf
    exact .inl ⟨hf, kind, extra, Host.Outcome.next.inj (h.symm.trans he)⟩
  · by_cases hk : ∃ x, i = .ldVxK x
    · obtain ⟨x, rfl⟩ := hk
      exact .inr (.inl ⟨x, rfl, (Host.Outcome.next.inj h).symm⟩)
    · have hk : ∀ x, i ≠ .ldVxK x := not_exists.1 hk
      obtain ⟨u, n, he, heff⟩ := exec_of_not_fatal hf hk
      have hpc : .pc ∈ partsWritten i := by cases i <;> simp_all [partsWritten]
      exact .inr (.inr ⟨hf, u, n, hpc, heff, Host.Outcome.next.inj (h.symm.trans he)⟩)

end Sys2Proof.Machine

/-! PROOFS. Rules about every instruction and every step, from what an execute phase can do (R44 to R52, R135, R301 to
R306). -/

namespace Sys2Proof.Machine

/-! ## Every instruction -/

theorem exec_total (i : Instr) (s : State) : ∃ t, exec i s = .next t := by
  by_cases hf : FatalCondition s i
  · obtain ⟨kind, extra, he⟩ := exec_of_fatal hf
    exact ⟨_, he⟩
  · by_cases hk : ∃ x, i = .ldVxK x
    · obtain ⟨x, rfl⟩ := hk
      exact ⟨_, rfl⟩
    · obtain ⟨u, n, he, -⟩ := exec_of_not_fatal hf (not_exists.1 hk)
      exact ⟨_, he⟩

/-- An instruction with a fatal condition lists the mode and the event list among the parts it writes (R305). -/
theorem fault_parts_subset {i : Instr} {s : State} (h : FatalCondition s i) : [.mode, .events] ⊆ partsWritten i := by
  cases i <;> simp_all [FatalCondition, partsWritten]

/-- Settles O50: a raise writes mode and events, a suspension the mode, an effect its own parts and `PC`. -/
theorem frameOfEveryInstruction : Obligations.FrameOfEveryInstruction := by
  intro i s t h
  obtain ⟨hf, kind, extra, rfl⟩ | ⟨x, rfl, rfl⟩ | ⟨-, u, n, hpc, heff, rfl⟩ := exec_cases h
  · exact (enterFault_changes s _).mono (fault_parts_subset hf)
  · exact suspend_changes s x
  · exact heff.frame.trans ((jump_changes u n).mono (by simpa using hpc))

/-- Settles O53: a raise records its report, an effect at most one call. -/
theorem oneCallPerExecutePhase : Obligations.OneCallPerExecutePhase := by
  intro i s t h
  obtain ⟨-, kind, extra, rfl⟩ | ⟨x, -, rfl⟩ | ⟨-, u, n, -, heff, rfl⟩ := exec_cases h
  · exact .inr ⟨_, rfl⟩
  · exact .inl rfl
  · exact heff.call.imp_right fun ⟨e, _, he⟩ => ⟨e, he⟩

/-- The mode an execute phase leaves, in each of its three outcomes (R305, R137). -/
theorem exec_mode {i : Instr} {s t : State} (h : exec i s = .next t) :
    (FatalCondition s i ∧ ∃ r, t.mode = .faulted r) ∨
    (∃ x, i = .ldVxK x ∧ t.mode = .waitKey x) ∨ (¬ FatalCondition s i ∧ t.mode = s.mode) := by
  obtain ⟨hf, kind, extra, rfl⟩ | ⟨x, hi, rfl⟩ | ⟨hf, u, n, -, heff, rfl⟩ := exec_cases h
  · exact .inl ⟨hf, _, rfl⟩
  · exact .inr (.inl ⟨x, hi, rfl⟩)
  · exact .inr (.inr ⟨hf, heff.mode⟩)

/-- Settles O51: of the three outcomes only the raise leaves a faulted mode on a session that is alive. -/
theorem fatalConditionsExactly : Obligations.FatalConditionsExactly := by
  intro i s t halive h
  obtain ⟨hf, hmode⟩ | ⟨x, rfl, hmode⟩ | ⟨hf, hmode⟩ := exec_mode h
  · exact ⟨fun _ => hf, fun _ => hmode⟩
  · exact ⟨fun ⟨r, hr⟩ => (nomatch hmode.symm.trans hr), False.elim⟩
  · exact ⟨fun ⟨r, hr⟩ => absurd (hmode.symm.trans hr) (halive r), fun hc => absurd hc hf⟩

/-- `raise` in an execute phase ends the session under the instruction's name and opcode (R304, R305). -/
theorem raise_endsSession (s : State) (kind : FatalKind) (i : Instr) (extra : Extra) :
    EndsSession s (s.raise kind i extra) kind kind.code i.mnemonic (some (encode i)) extra :=
  enterFault_endsSession s kind i.mnemonic (some (encode i)) extra

/-- Settles O52: an instruction that ends the session has raised, and a raise does nothing else. -/
theorem fatalInstructionWritesNothing : Obligations.FatalInstructionWritesNothing := by
  intro i s t r halive h hr
  obtain ⟨-, kind, extra, rfl⟩ | ⟨x, rfl, rfl⟩ | ⟨-, u, n, -, heff, rfl⟩ := exec_cases h
  · cases hr
    exact raise_endsSession s kind i extra
  · cases hr
  · exact absurd (heff.mode.symm.trans hr) (halive r)

/-- An execute phase makes no call of the pacer (D30). -/
theorem exec_call_notPacer {i : Instr} {s t : State} (h : exec i s = .next t) :
    t.events = s.events ∨ ∃ e : Event, e.NotPacer ∧ t.events = e :: s.events := by
  obtain ⟨-, kind, extra, rfl⟩ | ⟨x, -, rfl⟩ | ⟨-, u, n, -, heff, rfl⟩ := exec_cases h
  · exact .inr ⟨.fault _, ⟨nofun, nofun⟩, rfl⟩
  · exact .inl rfl
  · exact heff.call

/-- No execute phase writes the configuration, the accumulator or the pending keys (R11, R50, log entry 10). -/
theorem unwritten_parts (i : Instr) :
    .cfg ∉ partsWritten i ∧ .acc ∉ partsWritten i ∧ .suppliedKeys ∉ partsWritten i := by
  cases i <;> simp [partsWritten]

theorem exec_cfg {i : Instr} {s t : State} (h : exec i s = .next t) : t.cfg = s.cfg :=
  frameOfEveryInstruction i s t h .cfg (unwritten_parts i).1

theorem exec_acc {i : Instr} {s t : State} (h : exec i s = .next t) : t.acc = s.acc :=
  frameOfEveryInstruction i s t h .acc (unwritten_parts i).2.1

/-- Only `LD DT, Vx` writes the delay timer in its execute phase (R261). -/
theorem exec_dt {i : Instr} {s t : State} (h : exec i s = .next t) : t.dt = s.dt ∨ ∃ x, i = .ldDT x := by
  by_cases hi : ∃ x, i = .ldDT x
  · exact .inr hi
  · exact .inl (frameOfEveryInstruction i s t h .dt (by cases i <;> simp_all [partsWritten]))

/-- Only `LD ST, Vx` writes the sound timer in its execute phase (R262). -/
theorem exec_st {i : Instr} {s t : State} (h : exec i s = .next t) : t.st = s.st ∨ ∃ x, i = .ldST x := by
  by_cases hi : ∃ x, i = .ldST x
  · exact .inr hi
  · exact .inl (frameOfEveryInstruction i s t h .st (by cases i <;> simp_all [partsWritten]))

/-! ## Every step -/

/-- A step of a running engine whose opcode decodes is the instruction's execute phase and what follows it (R130). -/
theorem step_of_known {s t : State} {i : Instr} (hrun : s.mode = .run) (hpc : s.pc.toNat + 2 ≤ memSize)
    (hdec : decode s.cfg.strictDecode (s.fetch s.pc.toNat) = .known i) (h : exec i s = .next t) :
    step s = .next t.afterExecute := by
  have hr : inRange s.pc.toNat 2 = true := (inRange_iff ..).2 hpc
  simp only [step_of_run hrun, runStep, hr, if_true, hdec, h, finishStep]

/-- A fetch whose second byte is outside memory raises, and nothing is paced (R77). -/
theorem step_of_fetch_outside {s : State} (hrun : s.mode = .run) (hpc : memSize < s.pc.toNat + 2) :
    step s = .next s.raiseFetch := by
  have hr : inRange s.pc.toNat 2 = false := (inRange_eq_false_iff ..).2 hpc
  simp only [step_of_run hrun, runStep, hr, Bool.false_eq_true, if_false]

theorem step_of_faulted {s : State} {r : Report} (h : s.mode = .faulted r) : step s = .next s := by
  simp only [step, sessionStep, engineStep, h]

theorem step_of_waiting {s : State} {x : Nibble} (h : s.mode = .waitKey x) (hk : s.suppliedKeys = []) :
    step s = .next s := by
  simp only [step, sessionStep, engineStep, h, hk]

theorem step_of_key {s : State} {x k : Nibble} {ks : List Nibble} (h : s.mode = .waitKey x)
    (hk : s.suppliedKeys = k :: ks) : step s = supplyKey k.toNat { s with suppliedKeys := ks } := by
  simp only [step, sessionStep, h, hk]

theorem supplyKey_of_waiting {s : State} {x : Nibble} (h : s.mode = .waitKey x) (k : Nibble) :
    supplyKey k.toNat s = .next (resumedState s x k).pace :=
  (supplyKey_eq_next_iff ..).2 ⟨k.isLt, x, h, by simp only [BitVec.ofNat_toNat, BitVec.setWidth_eq]⟩

theorem step_total (s : State) : ∃ t, step s = .next t := by
  cases hm : s.mode with
  | faulted r => exact ⟨s, step_of_faulted hm⟩
  | waitKey x =>
    cases hk : s.suppliedKeys with
    | nil => exact ⟨s, step_of_waiting hm hk⟩
    | cons k ks => exact ⟨_, (step_of_key hm hk).trans (supplyKey_of_waiting (s := { s with suppliedKeys := ks }) hm k)⟩
  | run =>
    rcases Nat.lt_or_ge memSize (s.pc.toNat + 2) with hout | hin
    · exact ⟨_, step_of_fetch_outside hm hout⟩
    · cases hdec : decode s.cfg.strictDecode (s.fetch s.pc.toNat) with
      | unknown => exact ⟨_, (step_of_run hm).trans (runStep_of_unknown hin hdec)⟩
      | known i =>
        obtain ⟨t, ht⟩ := exec_total i s
        exact ⟨_, step_of_known hm hin hdec ht⟩

/-- Settles O15: no branch of an execute phase or of a step is without a next state. -/
theorem everyStepAnswersNext : Obligations.EveryStepAnswersNext := ⟨exec_total, step_total⟩

/-- Settles O1: the two bytes at `PC` are the fetch, and what follows the execute phase depends on the mode it left. -/
theorem stepRunsDecodedInstruction : Obligations.StepRunsDecodedInstruction := by
  intro s i hrun hpc hdec
  obtain ⟨t, ht⟩ := exec_total i s
  have hstep := step_of_known hrun hpc hdec ht
  refine ⟨t, ht, fun h => ?_, fun h => ?_⟩
  · rw [hstep, afterExecute_of_run h]
  · rw [hstep, afterExecute_of_not_run h]

/-- Settles O3: a failing fetch and a failing decode each enter the fault state with their own report. -/
theorem fetchAndDecodeFaultReports : Obligations.FetchAndDecodeFaultReports := by
  intro s hrun
  refine ⟨fun hpc => ⟨_, step_of_fetch_outside hrun hpc, enterFault_endsSession ..⟩, fun hpc hdec => ?_⟩
  exact ⟨_, (step_of_run hrun).trans (runStep_of_unknown hpc hdec), raiseUnknown_endsSession ..⟩

theorem pace_cfg (s : State) : s.pace.cfg = s.cfg := pace_changes s .cfg (by decide)

@[simp] theorem pace_mode (s : State) : s.pace.mode = s.mode := pace_changes s .mode (by decide)

theorem afterExecute_cfg (s : State) : s.afterExecute.cfg = s.cfg := by
  unfold State.afterExecute
  split
  · exact pace_cfg s
  · rfl
  · rfl

@[simp] theorem afterExecute_mode (s : State) : s.afterExecute.mode = s.mode := by
  unfold State.afterExecute
  split
  · exact pace_mode s
  · rfl
  · rfl

theorem step_cfg {s t : State} (h : step s = .next t) : t.cfg = s.cfg := by
  obtain ⟨-, rfl⟩ | ⟨x, k, ks, -, -, rfl⟩ | ⟨-, -, rfl⟩ | ⟨-, -, -, rfl⟩ | ⟨-, -, i, u, -, he, rfl⟩ := step_cases h
  · rfl
  · exact pace_cfg _
  · rfl
  · rfl
  · exact (afterExecute_cfg u).trans (exec_cfg he)

/-- Settles O44: of all a running engine's step can do, only the execute phase of `LD Vx, K` leaves a waiting mode. -/
theorem onlyKeyWaitSuspends : Obligations.OnlyKeyWaitSuspends := by
  intro s t x hrun h ht
  obtain ⟨hne, -⟩ | ⟨y, k, ks, hw, -⟩ | ⟨-, -, rfl⟩ | ⟨-, -, -, rfl⟩ | ⟨-, -, i, u, hdec, he, rfl⟩ := step_cases h
  · exact absurd hrun hne
  · exact nomatch hrun.symm.trans hw
  · exact nomatch ht
  · exact nomatch ht
  · rw [afterExecute_mode] at ht
    obtain ⟨-, r, hr⟩ | ⟨y, rfl, hy⟩ | ⟨-, hsame⟩ := exec_mode he
    · exact nomatch hr.symm.trans ht
    · cases hy.symm.trans ht
      exact hdec
    · exact nomatch (hsame.trans hrun).symm.trans ht

/-- Settles O43: the suspension is one write of the mode, and a step that leaves the engine waiting does not pace. -/
theorem keyWaitSuspends : Obligations.KeyWaitSuspends := by
  intro s x
  refine ⟨_, rfl, rfl, suspend_changes s x, fun hrun hpc hdec => ?_⟩
  exact step_of_known hrun hpc hdec rfl

end Sys2Proof.Machine

/-! PROOFS. The invariant of the machine: construction meets it; every step and every host operation keeps it (R39, R50,
R161, R305). -/

namespace Sys2Proof.Machine

/-- A raise keeps the invariant: it writes mode and events, and its report shows the registers as they are (R305). -/
theorem enterFault_inv {s : State} (hs : s.Inv) (kind : FatalKind) (name : String) (opcode : Option Word) (extra : Extra) :
    (s.enterFault (s.report kind name opcode extra)).Inv where
  memory := hs.memory
  pc := hs.pc
  stack := hs.stack
  times := hs.times
  acc := hs.acc
  report r hr := by
    cases hr
    exact ⟨rfl, rfl, rfl, rfl⟩

theorem reportFits_of_alive {s : State} (h : s.Alive) : s.ReportFits := fun r hr => absurd hr (h r)

theorem alive_of_run {s : State} (h : s.mode = .run) : s.Alive := fun _ hr => nomatch h.symm.trans hr

/-- The execute phase of a running engine keeps the invariant, in each of its three outcomes. -/
theorem exec_inv {i : Instr} {s t : State} (hs : s.Inv) (hrun : s.mode = .run) (h : exec i s = .next t) : t.Inv := by
  have hcfg := exec_cfg h
  obtain ⟨-, kind, extra, rfl⟩ | ⟨x, -, rfl⟩ | ⟨-, u, n, -, heff, rfl⟩ := exec_cases h
  · exact enterFault_inv hs kind i.mnemonic (some (encode i)) extra
  · exact ⟨hs.memory, hs.pc, hs.stack, hs.times, hs.acc, nofun⟩
  · exact {
      memory := heff.memory hs.memory
      pc := by rw [jump_pc_toNat]; exact Nat.mod_lt _ (by decide)
      stack := heff.stack hs.stack
      times := hcfg ▸ hs.times
      acc := by rw [exec_acc h, hcfg]; exact hs.acc
      report := reportFits_of_alive (alive_of_run (heff.mode.trans hrun)) }

theorem paceLoop_mem (fuel sound : Nat) (s : State) : (paceLoop fuel sound s).1.mem = s.mem := by
  induction fuel generalizing sound s with
  | zero => rfl
  | succ fuel ih =>
    simp only [paceLoop]
    split
    · exact ih _ s.crossPeriod
    · rfl

theorem pace_mem (s : State) : s.pace.mem = s.mem := paceLoop_mem _ _ s.addInstrTime

/-- What `pace()` leaves in the accumulator (R141). -/
theorem pace_acc (s : State) (hP : 0 < s.cfg.timerPeriod) :
    s.pace.acc = (s.acc + s.cfg.instrTime) % s.cfg.timerPeriod :=
  paceLoop_acc _ 0 s.addInstrTime hP (Nat.le_refl _)

theorem pace_inv {s : State} (hs : s.Inv) (hrun : s.mode = .run) : s.pace.Inv where
  memory := (congrArg Memory.wf (pace_mem s)).trans hs.memory
  pc := by rw [pace_changes s .pc (by decide)]; exact hs.pc
  stack := by rw [pace_changes s .stack (by decide)]; exact hs.stack
  times := (pace_cfg s).symm ▸ hs.times
  acc := by
    rw [pace_acc s hs.times.2, pace_cfg s]
    exact Nat.mod_lt _ hs.times.2
  report := reportFits_of_alive (alive_of_run ((pace_mode s).trans hrun))

theorem afterExecute_inv {s : State} (hs : s.Inv) : s.afterExecute.Inv := by
  by_cases hrun : s.mode = .run
  · exact (afterExecute_of_run hrun).symm ▸ pace_inv hs hrun
  · exact (afterExecute_of_not_run hrun).symm ▸ hs

/-- A completed key wait moves on to the next instruction (R138). -/
theorem resumedState_advanced (s : State) (x k : Nibble) : Advanced 1 s (resumedState s x k) := advanced_of_pc rfl

theorem resumedState_inv {s : State} (hs : s.Inv) (x k : Nibble) : (resumedState s x k).Inv where
  memory := hs.memory
  pc := (resumedState_advanced s x k).trans_lt (Nat.mod_lt _ (by decide))
  stack := hs.stack
  times := hs.times
  acc := hs.acc
  report := nofun

/-- Dropping a pending key is not seen by the invariant. -/
theorem suppliedKeys_inv {s : State} (hs : s.Inv) (ks : List Nibble) : ({ s with suppliedKeys := ks } : State).Inv where
  memory := hs.memory
  pc := hs.pc
  stack := hs.stack
  times := hs.times
  acc := hs.acc
  report := hs.report

/-- Settles O13: each of the five things a step can do keeps the invariant. -/
theorem stepKeepsInvariant : Obligations.StepKeepsInvariant := by
  intro s t hs h
  obtain ⟨-, rfl⟩ | ⟨x, k, ks, -, -, rfl⟩ | ⟨-, -, rfl⟩ | ⟨-, -, -, rfl⟩ | ⟨hrun, -, i, u, -, he, rfl⟩ := step_cases h
  · exact hs
  · exact pace_inv (resumedState_inv (suppliedKeys_inv hs ks) x k) rfl
  · exact enterFault_inv hs ..
  · exact enterFault_inv hs ..
  · exact afterExecute_inv (exec_inv hs hrun he)

/-- Settles O14: `supply_key` paces a resumed state, `load_data` stores a block inside memory. -/
theorem hostOperationsKeepInvariant : Obligations.HostOperationsKeepInvariant := by
  refine ⟨fun s t k hs h => ?_, fun s t bytes offset hs h => ?_⟩
  · obtain ⟨-, x, -, rfl⟩ := (supplyKey_eq_next_iff ..).1 h
    exact pace_inv (resumedState_inv hs x _) rfl
  · obtain ⟨-, hin, rfl⟩ := (loadData_eq_next_iff ..).1 h
    exact ⟨writeBytes_wf hs.memory hin, hs.pc, hs.stack, hs.times, hs.acc, hs.report⟩

/-- Settles O12: everything the invariant speaks of is zero at construction but `PC`. -/
theorem constructionMeetsInvariant : Obligations.ConstructionMeetsInvariant := by
  have hinv : ∀ c : SessionConfig, c.Positive → (State.construct c).Inv := fun c hc =>
    { memory := construct_mem_wf c
      pc := by simp [State.construct, memSize, entryPoint]
      stack := fun k hk => by simp [State.construct]
      times := hc
      acc := hc.2
      report := nofun }
  exact ⟨hinv, hinv resetSession (by decide)⟩

end Sys2Proof.Machine

/-! PROOFS. The pacer in closed form: the loop is so many crossed periods, and pacings, runs and waits add up (R140 to
R148). -/

namespace Sys2Proof.Machine

/-! ## Crossed periods -/

theorem countDown_toNat (b : Byte) : (countDown b).toNat = b.toNat - 1 := by
  unfold countDown
  split
  · rename_i h
    simp [h]
  · rename_i h
    have hpos : b.toNat ≠ 0 := fun e => h (BitVec.eq_of_toNat_eq (by simpa using e))
    rw [BitVec.toNat_sub_of_le (by bv_omega)]
    rfl

/-- A period's sound time is the first of those its timer still has (R145, D17). -/
theorem soundOfPeriod_add (s : State) (k : Nat) :
    s.soundOfPeriod + s.cfg.timerPeriod * min k (s.st.toNat - 1) = s.cfg.timerPeriod * min (k + 1) s.st.toNat := by
  unfold State.soundOfPeriod
  split
  · rename_i h
    simp [h]
  · rename_i h
    have hpos : s.st.toNat ≠ 0 := fun e => h (BitVec.eq_of_toNat_eq (by simpa using e))
    have hmin : min (k + 1) s.st.toNat = min k (s.st.toNat - 1) + 1 := by omega
    rw [hmin, Nat.mul_add, Nat.mul_one, Nat.add_comm]

section CrossedPeriods
variable (s : State) (k : Nat)

theorem crossPeriods_cfg : (State.crossPeriod^[k] s).cfg = s.cfg := by
  induction k with
  | zero => rfl
  | succ k ih => rw [Function.iterate_succ_apply', State.crossPeriod_cfg, ih]

theorem crossPeriods_dt : (State.crossPeriod^[k] s).dt.toNat = s.dt.toNat - k := by
  induction k with
  | zero => rfl
  | succ k ih => rw [Function.iterate_succ_apply', State.crossPeriod_dt, countDown_toNat, ih, Nat.sub_sub]

theorem crossPeriods_st : (State.crossPeriod^[k] s).st.toNat = s.st.toNat - k := by
  induction k with
  | zero => rfl
  | succ k ih => rw [Function.iterate_succ_apply', State.crossPeriod_st, countDown_toNat, ih, Nat.sub_sub]

theorem crossPeriods_events :
    (State.crossPeriod^[k] s).events = List.replicate k (.tick s.cfg.timerPeriod) ++ s.events := by
  induction k with
  | zero => rfl
  | succ k ih =>
    rw [Function.iterate_succ_apply', State.crossPeriod_events, crossPeriods_cfg, ih]
    rfl

end CrossedPeriods

/-- With fuel for every period the loop crosses `acc / TIMER_PERIOD` of them, and gathers their sound (R141, R145). -/
theorem paceLoop_eq_crossPeriods (fuel sound : Nat) (s : State) (hP : 0 < s.cfg.timerPeriod) (hf : s.acc ≤ fuel) :
    paceLoop fuel sound s = (State.crossPeriod^[s.acc / s.cfg.timerPeriod] s,
      sound + s.cfg.timerPeriod * min (s.acc / s.cfg.timerPeriod) s.st.toNat) := by
  induction fuel generalizing sound s with
  | zero =>
    have hacc : s.acc = 0 := by omega
    simp [paceLoop, hacc]
  | succ fuel ih =>
    unfold paceLoop
    split
    · rename_i hle
      have hdiv : s.acc / s.cfg.timerPeriod = (s.acc - s.cfg.timerPeriod) / s.cfg.timerPeriod + 1 :=
        Nat.div_eq_sub_div hP hle
      rw [ih _ s.crossPeriod hP (by rw [State.crossPeriod_acc]; omega)]
      simp only [State.crossPeriod_acc, State.crossPeriod_cfg, State.crossPeriod_st, countDown_toNat, hdiv,
        Function.iterate_succ_apply, Nat.add_assoc, soundOfPeriod_add]
    · rename_i hlt
      simp [Nat.div_eq_of_lt (Nat.lt_of_not_le hlt)]

/-! ## One pacing -/

/-- The periods one more instruction crosses (R141). -/
def periodsOfPace (s : State) : Nat := (s.acc + s.cfg.instrTime) / s.cfg.timerPeriod

section Pace
variable (s : State) (hP : 0 < s.cfg.timerPeriod)
include hP

theorem pace_eq_crossPeriods : s.pace = (State.crossPeriod^[periodsOfPace s] s.addInstrTime).emit
    (.playSound (s.cfg.timerPeriod * min (periodsOfPace s) s.st.toNat)) := by
  unfold State.pace
  rw [paceLoop_eq_crossPeriods _ 0 s.addInstrTime hP (Nat.le_refl _), Nat.zero_add]
  rfl

theorem pace_dt : s.pace.dt.toNat = s.dt.toNat - periodsOfPace s := by
  rw [pace_eq_crossPeriods s hP]
  exact crossPeriods_dt _ _

theorem pace_st : s.pace.st.toNat = s.st.toNat - periodsOfPace s := by
  rw [pace_eq_crossPeriods s hP]
  exact crossPeriods_st _ _

theorem pace_events : s.pace.events = .playSound (s.cfg.timerPeriod * min (periodsOfPace s) s.st.toNat) ::
    (List.replicate (periodsOfPace s) (.tick s.cfg.timerPeriod) ++ s.events) := by
  rw [pace_eq_crossPeriods s hP, State.emit_events, crossPeriods_events]
  rfl

end Pace

/-- Settles O41: the loop's closed form, and the frame of `pace()`. -/
theorem paceInClosedForm : Obligations.PaceInClosedForm := by
  rintro s k ⟨-, hP⟩ rfl
  exact ⟨pace_acc s hP, pace_events s hP, pace_changes s⟩

/-! ## Time adds up -/

theorem tickCount_ticks (k period : Nat) (es : List Event) :
    tickCount (List.replicate k (.tick period) ++ es) = tickCount es + k := by
  induction k with
  | zero => rfl
  | succ k ih => exact congrArg (· + 1) ih

theorem soundTotal_ticks (k period : Nat) (es : List Event) :
    soundTotal (List.replicate k (.tick period) ++ es) = soundTotal es := by
  induction k with
  | zero => rfl
  | succ k ih => exact ih

/-- Whatever the period, the loop makes no `PlaySound` and `pace()` makes one (R146). -/
theorem paceLoop_soundCalls (fuel sound : Nat) (s : State) :
    soundCalls (paceLoop fuel sound s).1.events = soundCalls s.events := by
  induction fuel generalizing sound s with
  | zero => rfl
  | succ fuel ih =>
    unfold paceLoop
    split
    · exact ih _ s.crossPeriod
    · rfl

theorem pace_soundCalls (s : State) : soundCalls s.pace.events = soundCalls s.events + 1 :=
  congrArg (· + 1) (paceLoop_soundCalls _ 0 s.addInstrTime)

/-- From `s` to `t` the time of `m` instructions has passed, one `PlaySound` for each and one `Tick` for each period
crossed (R148). -/
structure Elapsed (m : Nat) (s t : State) : Prop where
  cfg   : t.cfg = s.cfg
  acc   : t.acc = (s.acc + m * s.cfg.instrTime) % s.cfg.timerPeriod
  ticks : tickCount t.events = tickCount s.events + (s.acc + m * s.cfg.instrTime) / s.cfg.timerPeriod
  calls : soundCalls t.events = soundCalls s.events + m

/-- From `s` to `t` the timers have counted `p` periods down, and the sound of those periods has been played (R148). -/
structure CountedDown (p : Nat) (s t : State) : Prop where
  dt    : t.dt.toNat = s.dt.toNat - p
  st    : t.st.toNat = s.st.toNat - p
  sound : soundTotal t.events = soundTotal s.events + s.cfg.timerPeriod * min p s.st.toNat

/-- The periods `m` instructions cross from a state on (R148). -/
def periodsOf (m : Nat) (s : State) : Nat := (s.acc + m * s.cfg.instrTime) / s.cfg.timerPeriod

theorem div_add_mod_add_div (a c : Nat) {P : Nat} (hP : 0 < P) : a / P + (a % P + c) / P = (a + c) / P := by
  have hsplit : a + c = P * (a / P) + (a % P + c) := by rw [← Nat.add_assoc, Nat.div_add_mod]
  rw [hsplit, Nat.mul_add_div hP]

section Sums
variable {m m' : Nat} {s t u : State}

/-- The periods of two stretches add up: the accumulator carries the remainder over. -/
theorem Elapsed.periodsOf_add (hst : Elapsed m s t) (hP : 0 < s.cfg.timerPeriod) (m' : Nat) :
    periodsOf m s + periodsOf m' t = periodsOf (m + m') s := by
  simp only [periodsOf, hst.cfg, hst.acc]
  rw [div_add_mod_add_div _ _ hP, Nat.add_mul, Nat.add_assoc]

theorem Elapsed.trans (hst : Elapsed m s t) (htu : Elapsed m' t u) (hP : 0 < s.cfg.timerPeriod) :
    Elapsed (m + m') s u where
  cfg := htu.cfg.trans hst.cfg
  acc := by rw [htu.acc, hst.cfg, hst.acc, Nat.mod_add_mod, Nat.add_mul, Nat.add_assoc]
  ticks := by
    have hp : periodsOf m s + periodsOf m' t = periodsOf (m + m') s := hst.periodsOf_add hP m'
    rw [htu.ticks, hst.ticks, Nat.add_assoc]
    exact congrArg _ hp
  calls := by rw [htu.calls, hst.calls, Nat.add_assoc]

theorem CountedDown.trans {p q : Nat} (hst : CountedDown p s t) (htu : CountedDown q t u) (hcfg : t.cfg = s.cfg) :
    CountedDown (p + q) s u where
  dt := by rw [htu.dt, hst.dt, Nat.sub_sub]
  st := by rw [htu.st, hst.st, Nat.sub_sub]
  sound := by
    have hmin : min (p + q) s.st.toNat = min p s.st.toNat + min q (s.st.toNat - p) := by omega
    rw [htu.sound, hst.sound, hst.st, hcfg, hmin, Nat.mul_add, Nat.add_assoc]

/-- A change that makes no call of the pacer and keeps configuration and accumulator takes no time. -/
theorem Elapsed.of_notPacer (hcfg : t.cfg = s.cfg) (hacc : t.acc = s.acc)
    (hcall : t.events = s.events ∨ ∃ e : Event, e.NotPacer ∧ t.events = e :: s.events)
    (hlt : s.acc < s.cfg.timerPeriod) : Elapsed 0 s t := by
  have hcounts : tickCount t.events = tickCount s.events ∧ soundCalls t.events = soundCalls s.events := by
    obtain h | ⟨e, he, h⟩ := hcall
    · simp only [h, and_self]
    · rw [h]
      exact ⟨tickCount_cons_of_notPacer he _, soundCalls_cons_of_notPacer he _⟩
  refine ⟨hcfg, ?_, ?_, hcounts.2⟩
  · rw [hacc, Nat.zero_mul, Nat.add_zero, Nat.mod_eq_of_lt hlt]
  · rw [hcounts.1, Nat.zero_mul, Nat.add_zero, Nat.div_eq_of_lt hlt, Nat.add_zero]

theorem CountedDown.of_notPacer (hdt : t.dt = s.dt) (hst : t.st = s.st)
    (hcall : t.events = s.events ∨ ∃ e : Event, e.NotPacer ∧ t.events = e :: s.events) : CountedDown 0 s t := by
  refine ⟨by rw [hdt, Nat.sub_zero], by rw [hst, Nat.sub_zero], ?_⟩
  rw [Nat.zero_min, Nat.mul_zero, Nat.add_zero]
  obtain h | ⟨e, he, h⟩ := hcall
  · rw [h]
  · rw [h, soundTotal_cons_of_notPacer he]

theorem pace_elapsed (s : State) (hP : 0 < s.cfg.timerPeriod) : Elapsed 1 s s.pace where
  cfg := pace_cfg s
  acc := by rw [pace_acc s hP, Nat.one_mul]
  ticks := by
    rw [pace_events s hP, Nat.one_mul]
    exact tickCount_ticks ..
  calls := pace_soundCalls s

theorem pace_countedDown (s : State) (hP : 0 < s.cfg.timerPeriod) : CountedDown (periodsOf 1 s) s s.pace := by
  have hp : periodsOf 1 s = periodsOfPace s := by simp only [periodsOf, periodsOfPace, Nat.one_mul]
  rw [hp]
  refine ⟨pace_dt s hP, pace_st s hP, ?_⟩
  rw [pace_events s hP]
  exact congrArg (· + _) (soundTotal_ticks ..)

theorem periodsOf_zero (h : s.acc < s.cfg.timerPeriod) : periodsOf 0 s = 0 := by
  rw [periodsOf, Nat.zero_mul, Nat.add_zero, Nat.div_eq_of_lt h]

theorem Elapsed.acc_lt (h : Elapsed m s t) (hP : 0 < s.cfg.timerPeriod) : t.acc < t.cfg.timerPeriod := by
  rw [h.acc, h.cfg]
  exact Nat.mod_lt _ hP

end Sums

/-- The time of `m` instructions has passed, and the timers have counted down by it: nothing else has written them. -/
def Untouched (m : Nat) (s t : State) : Prop := Elapsed m s t ∧ CountedDown (periodsOf m s) s t

/-- A change that makes no call of the pacer and keeps its registers takes no time. -/
theorem Untouched.of_notPacer {s t : State} (hcfg : t.cfg = s.cfg) (hacc : t.acc = s.acc) (hdt : t.dt = s.dt)
    (hst : t.st = s.st) (hcall : t.events = s.events ∨ ∃ e : Event, e.NotPacer ∧ t.events = e :: s.events)
    (hlt : s.acc < s.cfg.timerPeriod) : Untouched 0 s t :=
  ⟨.of_notPacer hcfg hacc hcall hlt, (periodsOf_zero hlt).symm ▸ .of_notPacer hdt hst hcall⟩

theorem pace_untouched (s : State) (hP : 0 < s.cfg.timerPeriod) : Untouched 1 s s.pace :=
  ⟨pace_elapsed s hP, pace_countedDown s hP⟩

theorem Untouched.trans {m m' : Nat} {s t u : State} (hst : Untouched m s t) (htu : Untouched m' t u)
    (hP : 0 < s.cfg.timerPeriod) : Untouched (m + m') s u := by
  refine ⟨hst.1.trans htu.1 hP, ?_⟩
  rw [← hst.1.periodsOf_add hP]
  exact hst.2.trans htu.2 hst.1.cfg

theorem iterate_pace_untouched (m : Nat) {s : State} (hP : 0 < s.cfg.timerPeriod) (hlt : s.acc < s.cfg.timerPeriod) :
    Untouched m s (State.pace^[m] s) := by
  induction m with
  | zero => exact .of_notPacer rfl rfl rfl rfl (.inl rfl) hlt
  | succ m ih =>
    rw [Function.iterate_succ_apply']
    exact ih.trans (pace_untouched _ (ih.1.cfg.symm ▸ hP)) hP

/-- Settles O42: by induction on the pacings, each adding one instruction's time to the sums. -/
theorem pacerLawsOverManyPacings : Obligations.PacerLawsOverManyPacings := by
  rintro s m p ⟨-, hP⟩ rfl hlt
  obtain ⟨htime, hcount⟩ := iterate_pace_untouched m hP hlt
  exact ⟨htime.acc, hcount.dt, hcount.st, htime.ticks, hcount.sound, htime.calls⟩

end Sys2Proof.Machine

/-! PROOFS. Runs of steps: the sums of the pacer over any run, and the states no step leaves (R138, R148, R306). -/

namespace Sys2Proof.Machine

/-! ## Runs -/

theorem run_succ {s t : State} (h : step s = .next t) (n : Nat) :
    Host.Core.run core (n + 1) s = Host.Core.run core n t := by
  have hcore : core.step s = .next t := h
  simp only [Host.Core.run, hcore]

/-- A state whose step is itself is the end of every run from it. -/
theorem run_of_step_self {s : State} (h : step s = .next s) (n : Nat) : Host.Core.run core n s = .next s := by
  induction n with
  | zero => rfl
  | succ n ih => rw [run_succ h, ih]

/-- Settles O4: a faulted state is its own next state, and the host's operations have none from it. -/
theorem faultedStateIsFinal : Obligations.FaultedStateIsFinal := by
  intro s r h
  refine ⟨run_of_step_self (step_of_faulted h), fun k t hk => ?_, fun bytes offset t hl => ?_⟩
  · obtain ⟨-, x, hx, -⟩ := (supplyKey_eq_next_iff ..).1 hk
    exact nomatch h.symm.trans hx
  · obtain ⟨halive, -, -⟩ := (loadData_eq_next_iff ..).1 hl
    exact halive r h

/-- Settles O5: an engine that waits with no key pending is its own next state. -/
theorem waitingEngineIsUnchanged : Obligations.WaitingEngineIsUnchanged :=
  fun _ _ h hk => run_of_step_self (step_of_waiting h hk)

/-! ## The pacer over a run -/

/-- Entering the fault state takes no time (R305). -/
theorem raise_untouched (s : State) (r : Report) (hlt : s.acc < s.cfg.timerPeriod) : Untouched 0 s (s.enterFault r) :=
  .of_notPacer rfl rfl rfl rfl (.inr ⟨.fault r, ⟨nofun, nofun⟩, rfl⟩) hlt

/-- Whether a step executes an instruction or not, it takes the time of the instructions it completes, none or one; and it
counts the timers down by that time unless it fetches `LD DT, Vx` or `LD ST, Vx`. -/
theorem step_elapsed {s t : State} (hP : 0 < s.cfg.timerPeriod) (hlt : s.acc < s.cfg.timerPeriod)
    (h : step s = .next t) : ∃ m, Elapsed m s t ∧ (s.LeavesTimers → CountedDown (periodsOf m s) s t) := by
  obtain ⟨-, rfl⟩ | ⟨x, k, ks, -, -, rfl⟩ | ⟨-, -, rfl⟩ | ⟨-, -, -, rfl⟩ | ⟨hrun, hpc, i, u, hdec, he, rfl⟩ := step_cases h
  · obtain ⟨htime, hcount⟩ := Untouched.of_notPacer (t := t) rfl rfl rfl rfl (.inl rfl) hlt
    exact ⟨0, htime, fun _ => hcount⟩
  · have hresumed : Untouched 0 s (resumedState { s with suppliedKeys := ks } x k) :=
      .of_notPacer rfl rfl rfl rfl (.inr ⟨.waitKey k, ⟨nofun, nofun⟩, rfl⟩) hlt
    obtain ⟨htime, hcount⟩ := hresumed.trans (pace_untouched _ hP) hP
    exact ⟨_, htime, fun _ => hcount⟩
  · obtain ⟨htime, hcount⟩ := raise_untouched s _ hlt
    exact ⟨0, htime, fun _ => hcount⟩
  · obtain ⟨htime, hcount⟩ := raise_untouched s _ hlt
    exact ⟨0, htime, fun _ => hcount⟩
  · have hexec : Elapsed 0 s u := .of_notPacer (exec_cfg he) (exec_acc he) (exec_call_notPacer he) hlt
    have hP' : 0 < u.cfg.timerPeriod := hexec.cfg.symm ▸ hP
    have huntouched : s.LeavesTimers → Untouched 0 s u := fun hl => by
      have hdt : u.dt = s.dt := (exec_dt he).resolve_right fun ⟨x, hi⟩ => (hl hrun hpc x).1 (hi ▸ hdec)
      have hst : u.st = s.st := (exec_st he).resolve_right fun ⟨x, hi⟩ => (hl hrun hpc x).2 (hi ▸ hdec)
      exact .of_notPacer (exec_cfg he) (exec_acc he) hdt hst (exec_call_notPacer he) hlt
    by_cases hu : u.mode = .run
    · rw [afterExecute_of_run hu]
      exact ⟨_, hexec.trans (pace_elapsed u hP') hP, fun hl => ((huntouched hl).trans (pace_untouched u hP') hP).2⟩
    · rw [afterExecute_of_not_run hu]
      exact ⟨0, hexec, fun hl => (huntouched hl).2⟩

/-- Over a run the times of its steps add up. -/
theorem run_elapsed (n : Nat) {s t : State} (hP : 0 < s.cfg.timerPeriod) (hlt : s.acc < s.cfg.timerPeriod)
    (h : Host.Core.run core n s = .next t) :
    ∃ m, Elapsed m s t ∧ (TimersUnwritten n s → CountedDown (periodsOf m s) s t) := by
  induction n generalizing s with
  | zero =>
    cases h
    obtain ⟨htime, hcount⟩ := Untouched.of_notPacer (t := t) rfl rfl rfl rfl (.inl rfl) hlt
    exact ⟨0, htime, fun _ => hcount⟩
  | succ n ih =>
    obtain ⟨u, hu⟩ := step_total s
    rw [run_succ hu] at h
    obtain ⟨m, htime, hcount⟩ := step_elapsed hP hlt hu
    obtain ⟨m', htime', hcount'⟩ := ih (htime.cfg.symm ▸ hP) (htime.acc_lt hP) h
    refine ⟨m + m', htime.trans htime' hP, fun ⟨hleaves, hrest⟩ => ?_⟩
    exact (Untouched.trans ⟨htime, hcount hleaves⟩ ⟨htime', hcount' (hrest u hu)⟩ hP).2

/-- Settles O55: the run takes the time of some number of instructions, and its `PlaySound` calls tell which number. -/
theorem pacerLawsOverEveryRun : Obligations.PacerLawsOverEveryRun := by
  rintro s t n m p ⟨-, hP⟩ hlt hrun hcalls rfl
  obtain ⟨m', htime, hcount⟩ := run_elapsed n hP hlt hrun
  obtain rfl : m = m' := Nat.add_left_cancel (hcalls.symm.trans htime.calls)
  exact ⟨htime.acc, htime.ticks, fun hu => ⟨(hcount hu).dt, (hcount hu).st, (hcount hu).sound⟩⟩

/-! ## Timers -/

/-- An execute phase that suspends or faults is not one of the two that write a timer (R137, R305). -/
theorem exec_keeps_timers_of_not_run {i : Instr} {s t : State} (hrun : s.mode = .run) (h : exec i s = .next t)
    (ht : t.mode ≠ .run) : t.dt = s.dt ∧ t.st = s.st := by
  refine ⟨(exec_dt h).resolve_right ?_, (exec_st h).resolve_right ?_⟩
  · rintro ⟨x, rfl⟩
    cases h
    exact ht hrun
  · rintro ⟨x, rfl⟩
    cases h
    exact ht hrun

/-- A step that leaves the engine not running has not paced, and has written no timer (R137, R138, R305). -/
theorem step_keeps_timers_of_not_run {s t : State} (h : step s = .next t) (ht : t.mode ≠ .run) :
    t.dt = s.dt ∧ t.st = s.st := by
  obtain ⟨-, rfl⟩ | ⟨x, k, ks, -, -, rfl⟩ | ⟨-, -, rfl⟩ | ⟨-, -, -, rfl⟩ | ⟨hrun, -, i, u, -, he, rfl⟩ := step_cases h
  · exact ⟨rfl, rfl⟩
  · exact absurd (pace_mode _) ht
  · exact ⟨rfl, rfl⟩
  · exact ⟨rfl, rfl⟩
  · rw [afterExecute_mode] at ht
    rw [afterExecute_of_not_run ht]
    exact exec_keeps_timers_of_not_run hrun he ht

/-- Settles O40: `pace()` in closed form, the frame of every execute phase, and what each step and host call can be. -/
theorem timersCountDownPerPeriod : Obligations.TimersCountDownPerPeriod := by
  refine ⟨fun s hpos => ⟨pace_dt s hpos.2, pace_st s hpos.2⟩, fun i s t h => ⟨exec_dt h, exec_st h⟩, ?_, ?_, ?_, ?_, ?_⟩
  · intro i s t hrun hpc hdec h ht
    rw [step_of_known hrun hpc hdec h, afterExecute_of_run ht]
  · exact fun s t h ht => step_keeps_timers_of_not_run h ht
  · intro s t x hw h
    cases hk : s.suppliedKeys with
    | nil => exact .inl (Host.Outcome.next.inj (h.symm.trans (step_of_waiting hw hk)))
    | cons k ks => exact .inr ⟨k, ks, rfl, (step_of_key hw hk).symm.trans h⟩
  · intro s t k h
    obtain ⟨-, x, -, rfl⟩ := (supplyKey_eq_next_iff ..).1 h
    exact ⟨_, rfl, rfl, rfl, rfl, rfl⟩
  · intro s t bytes offset h
    obtain ⟨-, -, rfl⟩ := (loadData_eq_next_iff ..).1 h
    exact ⟨rfl, rfl⟩

end Sys2Proof.Machine

/-! PROOFS. Construction, boot and the host's operations (R53, R80, R138, R139, R326, R340 to R344), and who writes a general
register (R44). -/

namespace Sys2Proof.Machine

/-! ## The key wait -/

theorem getV_resumedState (s : State) (x k r : Nibble) :
    (resumedState s x k).getV r = if r = x then BitVec.ofNat 8 k.toNat else s.getV r :=
  getV_setV { s with mode := .run } x r _

theorem resumedState_changes (s : State) (x k : Nibble) :
    ChangesOnly [.v, .pc, .mode, .events] s (resumedState s x k) := by
  intro p hp
  cases p <;> simp_all [Part.Same]

/-- Settles O6: the call paces the resumed state, and a step with a key pending makes that call. -/
theorem supplyKeyCompletesTheWait : Obligations.SupplyKeyCompletesTheWait := by
  intro s x k hw
  have hkey : ((resumedState s x k).getV x).toNat = k.toNat := by
    have hk := k.isLt
    rw [getV_resumedState, if_pos rfl, BitVec.toNat_ofNat]
    omega
  have honly : OnlyV x s (resumedState s x k) := fun r hr => by rw [getV_resumedState, if_neg hr]
  exact ⟨⟨_, supplyKey_of_waiting hw k, hkey, honly, resumedState_advanced s x k, rfl, rfl, resumedState_changes s x k⟩,
    fun ks hks => step_of_key hw hks⟩

/-- Settles O49: a raise and a suspension write no register, an effect those of its row; `supply_key` writes the register
the engine waits with. -/
theorem generalRegisterWriters : Obligations.GeneralRegisterWriters := by
  refine ⟨fun i s t r h hr => ?_, fun s t k r h hr => ?_⟩
  · obtain ⟨-, kind, extra, rfl⟩ | ⟨x, -, rfl⟩ | ⟨-, u, n, -, heff, rfl⟩ := exec_cases h
    · exact absurd rfl hr
    · exact absurd rfl hr
    · exact heff.regs r hr
  · obtain ⟨-, x, hw, rfl⟩ := (supplyKey_eq_next_iff ..).1 h
    rw [pace_changes _ .v (by decide) r, getV_resumedState] at hr
    by_cases hrx : r = x
    · exact hrx ▸ hw
    · exact absurd (if_neg hrx) hr

/-! ## run_count -/

/-- The moves are enough for `n` more instructions: two for each, one less when the engine waits with a key pending. -/
def EnoughMoves (moves n : Nat) (s : State) : Prop :=
  (s.mode = .run → 2 * n ≤ moves) ∧ (∀ x, s.mode = .waitKey x → s.suppliedKeys ≠ [] → 2 * n ≤ moves + 1)

/-- A step records one `PlaySound` when it leaves the engine running, which is when it completes an instruction, and none
otherwise (R139, R146). -/
theorem step_soundCalls {s t : State} (h : step s = .next t) :
    soundCalls t.events = soundCalls s.events + (if t.mode = .run then 1 else 0) := by
  obtain ⟨hne, rfl⟩ | ⟨x, k, ks, -, -, rfl⟩ | ⟨-, -, rfl⟩ | ⟨-, -, -, rfl⟩ | ⟨-, -, i, u, -, he, rfl⟩ := step_cases h
  · rw [if_neg hne, Nat.add_zero]
  · have hrun : (resumedState { s with suppliedKeys := ks } x k).pace.mode = .run := pace_mode _
    rw [if_pos hrun, pace_soundCalls]
    rfl
  · rfl
  · rfl
  · have hu : soundCalls u.events = soundCalls s.events := by
      obtain hev | ⟨e, he, hev⟩ := exec_call_notPacer he
      · rw [hev]
      · rw [hev, soundCalls_cons_of_notPacer he]
    rw [afterExecute_mode]
    split
    · rename_i hrun
      rw [afterExecute_of_run hrun, pace_soundCalls, hu]
    · rename_i hne
      rw [afterExecute_of_not_run hne, hu, Nat.add_zero]

/-- A move of an engine that does not run: nothing, with no key pending for a wait, or the completion of the wait (R138,
R306). -/
theorem step_of_not_run {s t : State} (hne : s.mode ≠ .run) (h : step s = .next t) :
    (t = s ∧ ∀ x, s.mode = .waitKey x → s.suppliedKeys = []) ∨
    (t.mode = .run ∧ ∃ x, s.mode = .waitKey x ∧ s.suppliedKeys ≠ []) := by
  cases hm : s.mode with
  | run => exact absurd hm hne
  | faulted r => exact .inl ⟨Host.Outcome.next.inj (h.symm.trans (step_of_faulted hm)), nofun⟩
  | waitKey x =>
    cases hk : s.suppliedKeys with
    | nil => exact .inl ⟨Host.Outcome.next.inj (h.symm.trans (step_of_waiting hm hk)), fun _ _ => rfl⟩
    | cons k ks =>
      have hnext := (step_of_key hm hk).trans (supplyKey_of_waiting (s := { s with suppliedKeys := ks }) hm k)
      obtain rfl := Host.Outcome.next.inj (h.symm.trans hnext)
      exact .inr ⟨pace_mode _, x, rfl, nofun⟩

theorem EnoughMoves.after_step {moves n : Nat} {s t : State} (hs : EnoughMoves (moves + 1) (n + 1) s)
    (h : step s = .next t) : EnoughMoves moves (if t.mode = .run then n else n + 1) t := by
  obtain ⟨hrun, hwait⟩ := hs
  by_cases hm : s.mode = .run
  · have hmoves := hrun hm
    refine ⟨fun ht => ?_, fun x ht _ => ?_⟩
    · rw [if_pos ht]; omega
    · rw [if_neg (ht ▸ nofun)]; omega
  · obtain ⟨rfl, hnone⟩ | ⟨ht, x, hx, hkeys⟩ := step_of_not_run hm h
    · exact ⟨fun ht => absurd ht hm, fun x ht hkeys => absurd (hnone x ht) hkeys⟩
    · have hmoves := hwait x hx hkeys
      exact ⟨fun _ => by rw [if_pos ht]; omega, fun _ hw => (nomatch ht.symm.trans hw)⟩

/-- A run of `run_count(n)` with moves enough that ends running has recorded `n` more `PlaySound` calls. -/
theorem runCount_soundCalls {moves n : Nat} {s t : State} (hmoves : EnoughMoves moves n s)
    (h : runCount moves n s = .next t) (ht : t.mode = .run) : soundCalls t.events = soundCalls s.events + n := by
  induction moves generalizing n s with
  | zero =>
    obtain rfl : s = t := Host.Outcome.next.inj h
    have hn : 2 * n ≤ 0 := hmoves.1 ht
    rw [show n = 0 by omega, Nat.add_zero]
  | succ moves ih =>
    cases n with
    | zero =>
      obtain rfl : s = t := Host.Outcome.next.inj h
      rfl
    | succ n =>
      obtain ⟨u, hu⟩ := step_total s
      have hmove : sessionStep s = .next u := hu
      have hcount := step_soundCalls hu
      have hrest := hmoves.after_step hu
      simp only [runCount, hmove] at h
      cases hm : u.mode with
      | run =>
        simp only [hm, if_true] at h hcount hrest
        rw [ih hrest h, hcount, Nat.add_assoc, Nat.add_comm 1 n]
      | waitKey x =>
        simp only [hm, reduceCtorEq, if_false] at h hcount hrest
        rw [ih hrest h, hcount, Nat.add_zero]
      | faulted r =>
        simp only [hm] at h
        obtain rfl : u = t := Host.Outcome.next.inj h
        exact nomatch hm.symm.trans ht

/-- Settles O16: two moves an instruction are enough, since a wait takes a second move only when its key is pending. -/
theorem runCountMeetsItsBudget : Obligations.RunCountMeetsItsBudget := by
  intro moves n s t hrun hmoves h ht
  exact runCount_soundCalls ⟨fun _ => hmoves, fun x hw => (nomatch hrun.symm.trans hw)⟩ h ht

/-! ## load_data and boot -/

/-- Settles O7: each check of `supply_key` and `load_data` that fails gives its own refusal, or the fault. -/
theorem hostCallsOutsideContract : Obligations.HostCallsOutsideContract := by
  refine fun s => ⟨fun hw k hk => ?_, fun k hk => ?_, fun halive bytes offset hout => ?_, fun r hr bytes offset => ?_⟩
  · cases hm : s.mode with
    | waitKey x => exact absurd hm (hw x)
    | run | faulted r => simp only [supplyKey, if_pos hk, hm]
  · simp only [supplyKey, if_neg (Nat.not_lt.2 hk)]
  · have hr : inRange offset bytes.length = false := (inRange_eq_false_iff ..).2 hout
    cases hm : s.mode with
    | faulted r => exact absurd hm (halive r)
    | run | waitKey x => simp only [loadData, hm, hr, Bool.false_eq_true, if_false]
  · simp only [loadData, hr]

/-- A load inside its bound stores the block (R80). -/
theorem loadData_of_inRange {s : State} (halive : s.Alive) {bytes : List Byte} {offset : Nat}
    (h : offset + bytes.length ≤ memSize) :
    loadData bytes offset s = .next { s with mem := s.mem.writeBytes offset bytes } :=
  (loadData_eq_next_iff ..).2 ⟨halive, h, rfl⟩

/-- Settles O8: the block store gives each byte its place and changes memory alone. -/
theorem loadDataCopiesBytes : Obligations.LoadDataCopiesBytes := by
  intro s bytes offset halive hwf h
  exact ⟨_, loadData_of_inRange halive h, fun j hj => read_writeBytes_same hwf h hj,
    fun a ha => read_writeBytes_other _ _ _ ha, mem_changes s _⟩

/-- Memory as the conventional boot leaves it: the font at 0, the program at the entry point (R343). -/
def bootMemory (c : SessionConfig) (rom : List Byte) : Memory :=
  (Memory.writeBytes [] fontBase c.font.toList).writeBytes entryPoint rom

theorem construct_alive (c : SessionConfig) : (State.construct c).Alive := alive_of_run rfl

theorem font_fits (c : SessionConfig) : fontBase + c.font.toList.length ≤ memSize := by
  simp [fontBase, fontSize, memSize]

theorem program_fits {rom : List Byte} (h : rom.length ≤ 3584) : entryPoint + rom.length ≤ memSize := by
  simp only [entryPoint, memSize]
  omega

theorem boot_eq (c : SessionConfig) (rom : List Byte) (h : rom.length ≤ 3584) :
    boot c rom = .next { State.construct c with mem := bootMemory c rom } := by
  rw [boot, loadData_of_inRange (construct_alive c) (font_fits c)]
  exact loadData_of_inRange (s := { State.construct c with mem := Memory.writeBytes [] fontBase c.font.toList })
    (construct_alive c) (program_fits h)

/-- Settles O10: the font's block and the program's are disjoint, so each reads back, and the rest of memory is 0. -/
theorem bootPlacesFontAndProgram : Obligations.BootPlacesFontAndProgram := by
  intro c rom hlen
  have hfontLen : c.font.toList.length = 80 := by simp [fontSize]
  refine ⟨_, boot_eq c rom hlen, fun j hj => ?_, fun j hj => ?_, fun a hfa ha => ?_, mem_changes _ _⟩
  · have hread := read_writeBytes_same (construct_mem_wf c) (font_fits c) (j := j) (by omega)
    rw [bootMemory, read_writeBytes_other _ _ _ (.inl (by simp only [entryPoint]; omega))]
    simpa [fontBase, State.construct] using hread
  · exact read_writeBytes_same (writeBytes_wf (construct_mem_wf c) (font_fits c)) (program_fits hlen) hj
  · rw [bootMemory, read_writeBytes_other _ _ _ ha, read_writeBytes_other _ _ _ (.inr (by simp only [fontBase]; omega))]
    rfl

/-! ## Construction -/

theorem construct_getV (c : SessionConfig) (r : Nibble) : (State.construct c).getV r = 0 := by
  simp [State.construct, State.getV]

/-- Settles O9: the table row by row; that the configuration stays is the frame of every step. -/
theorem constructionIsTheResetTable : Obligations.ConstructionIsTheResetTable := by
  refine ⟨fun c => ⟨_, rfl, rfl, rfl, fun r => ?_, rfl, rfl, fun k hk => ?_, fun a _ => rfl, rfl, rfl, fun r col _ _ => ?_, rfl,
    rfl⟩, ⟨_, rfl⟩, fun s t h => step_cfg h⟩
  · rw [construct_getV]; rfl
  · simp [State.construct]
  · exact cell_clear r col

/-- Settles O11: memory reads 0 everywhere, and 0000 is no instruction under either setting. -/
theorem firstStepWithoutProgramFaults : Obligations.FirstStepWithoutProgramFaults := by
  intro c
  have hfetch : (State.construct c).fetch (State.construct c).pc.toNat = 0x0000 :=
    (by decide : opcodeOf 0 0 = 0x0000)
  have hdec : decode c.strictDecode 0x0000 = .unknown := by cases c.strictDecode <;> rfl
  have hpc : (State.construct c).pc.toNat + 2 ≤ memSize := by simp [State.construct, entryPoint, memSize]
  have hstep := runStep_of_unknown hpc (by rw [hfetch]; exact hdec)
  rw [hfetch] at hstep
  exact ⟨_, (step_of_run rfl).trans hstep, raiseUnknown_endsSession ..⟩

end Sys2Proof.Machine

/-! PROOFS. The decoder, the encoder and the table say the same (R101, R107, R109, R112, R118). -/

namespace Sys2Proof

/-! ## A word from its fields -/

theorem word_eq_byte (w : Word) : fieldOp w ++ fieldX w ++ fieldKK w = w := by
  have hkk : (fieldY w ++ fieldN w : Byte) = fieldKK w := by
    apply BitVec.eq_of_getLsbD_eq
    intro k hk
    simp only [fieldY, fieldN, fieldKK, BitVec.getLsbD_append, BitVec.getLsbD_extractLsb']
    split
    · simp_all
    · have hsub : 4 + (k - 4) = k := by omega
      have hlt : k - 4 < 4 := by omega
      simp_all
  rw [← hkk, ← append_two_nibbles]
  exact word_eq_nibbles w

theorem word_eq_address (w : Word) : fieldOp w ++ fieldNNN w = w := by
  have hnnn : (fieldX w ++ fieldKK w : Addr) = fieldNNN w := by
    rw [← fieldNNN_address (fieldOp w) (fieldX w ++ fieldKK w), ← append_nibble_byte, word_eq_byte]
  rw [← hnnn, ← append_nibble_byte]
  exact word_eq_byte w

theorem fieldOp_eq_of_toNat {w : Word} {k : Nat} (h : (fieldOp w).toNat = k) : fieldOp w = BitVec.ofNat 4 k := by
  rw [← h, BitVec.ofNat_toNat, BitVec.setWidth_eq]

section KnownOp
variable {w : Word} {k : Nat} (hop : (fieldOp w).toNat = k)
include hop

theorem word_of_op_address : BitVec.ofNat 4 k ++ fieldNNN w = w := by
  rw [← fieldOp_eq_of_toNat hop, word_eq_address]

theorem word_of_op_byte : BitVec.ofNat 4 k ++ fieldX w ++ fieldKK w = w := by
  rw [← fieldOp_eq_of_toNat hop, word_eq_byte]

theorem word_of_op_nibbles : BitVec.ofNat 4 k ++ fieldX w ++ fieldY w ++ fieldN w = w := by
  rw [← fieldOp_eq_of_toNat hop, word_eq_nibbles]

theorem word_of_op_kk {kk : Byte} (hkk : fieldKK w = kk) : BitVec.ofNat 4 k ++ fieldX w ++ kk = w := by
  rw [← hkk, word_of_op_byte hop]

theorem word_of_op_n {n : Nat} (hn : (fieldN w).toNat = n) :
    BitVec.ofNat 4 k ++ fieldX w ++ fieldY w ++ BitVec.ofNat 4 n = w := by
  rw [← hn, BitVec.ofNat_toNat, BitVec.setWidth_eq, word_of_op_nibbles hop]

end KnownOp

/-! ## Decoding what is encoded -/

theorem whenIgnorable_eq_known_iff (strict : Bool) (z : Nibble) (i j : Instr) :
    whenIgnorable strict z i = .known j ↔ i = j ∧ (strict = true → z = 0) := by
  unfold whenIgnorable
  split
  · simp_all
  · split <;> simp_all

theorem whenIgnorable_eq_unknown_iff (strict : Bool) (z : Nibble) (i : Instr) :
    whenIgnorable strict z i = .unknown ↔ strict = true ∧ z ≠ 0 := by
  unfold whenIgnorable
  split
  · simp_all
  · split <;> simp_all

theorem whenIgnorable_of_wellFormed {strict : Bool} {z : Nibble} (h : strict = true → z = 0) (i : Instr) :
    whenIgnorable strict z i = .known i := (whenIgnorable_eq_known_iff ..).2 ⟨rfl, h⟩

/-- Settles O18: the dispatch keys of each row select its constructor, and its operand fields read back. -/
theorem decodeOfEncode : Obligations.DecodeOfEncode := by
  intro strict i hwf
  cases i with
  | jp | call | ldI | jpV0 => simp [encode, decode]
  | seImm | sneImm | ldImm | addImm | rnd => simp [encode, decode]
  | drw => simp [encode, decode]
  | ldReg | or | and | xor | addReg | sub | shr | subn | shl => simp [encode, decode, decodeAlu]
  | skp | sknp => simp [encode, decode, decodeKeys]
  | ldVxDT | ldVxK | ldDT | ldST | addI | ldF | ldB | ldMemStore | ldMemLoad => simp [encode, decode, decodeMisc]
  | cls z | ret z => simp [encode, decode, decodeSystem, whenIgnorable_of_wellFormed (z := z) hwf]
  | seReg x y z | sneReg x y z => simp [encode, decode, whenIgnorable_of_wellFormed (z := z) hwf]

/-! ## Encoding what is decoded -/

section Inversion
variable {strict : Bool} {w : Word} {i : Instr}

theorem encode_of_decodeSystem (hop : (fieldOp w).toNat = 0x0) (h : decodeSystem strict w = .known i) :
    encode i = w ∧ i.WellFormed strict := by
  unfold decodeSystem at h
  split_ifs at h with hcls hret
  · obtain ⟨rfl, hz⟩ := (whenIgnorable_eq_known_iff ..).1 h
    exact ⟨word_of_op_kk hop hcls, hz⟩
  · obtain ⟨rfl, hz⟩ := (whenIgnorable_eq_known_iff ..).1 h
    exact ⟨word_of_op_kk hop hret, hz⟩

theorem encode_of_decodeAlu (hop : (fieldOp w).toNat = 0x8) (h : decodeAlu w = .known i) :
    encode i = w ∧ i.WellFormed strict := by
  unfold decodeAlu at h
  dsimp only at h
  split at h <;> cases h <;> rename_i hn <;> exact ⟨word_of_op_n hop hn, fun _ => rfl⟩

theorem encode_of_decodeKeys (hop : (fieldOp w).toNat = 0xE) (h : decodeKeys w = .known i) :
    encode i = w ∧ i.WellFormed strict := by
  unfold decodeKeys at h
  split_ifs at h with h1 h2 <;> cases h <;> exact ⟨word_of_op_kk hop (by assumption), fun _ => rfl⟩

theorem encode_of_decodeMisc (hop : (fieldOp w).toNat = 0xF) (h : decodeMisc w = .known i) :
    encode i = w ∧ i.WellFormed strict := by
  unfold decodeMisc at h
  dsimp only at h
  split_ifs at h <;> cases h <;> exact ⟨word_of_op_kk hop (by assumption), fun _ => rfl⟩

end Inversion

/-- Settles O19: each branch of the decoder puts the word's own fields behind its row's keys. -/
theorem encodeOfDecode : Obligations.EncodeOfDecode := by
  intro strict w i h
  have hlt : (fieldOp w).toNat < 16 := (fieldOp w).isLt
  unfold decode at h
  split at h <;> rename_i hop
  · exact encode_of_decodeSystem hop h
  · cases h; exact ⟨word_of_op_address hop, fun _ => rfl⟩
  · cases h; exact ⟨word_of_op_address hop, fun _ => rfl⟩
  · cases h; exact ⟨word_of_op_byte hop, fun _ => rfl⟩
  · cases h; exact ⟨word_of_op_byte hop, fun _ => rfl⟩
  · obtain ⟨rfl, hz⟩ := (whenIgnorable_eq_known_iff ..).1 h
    exact ⟨word_of_op_nibbles hop, hz⟩
  · cases h; exact ⟨word_of_op_byte hop, fun _ => rfl⟩
  · cases h; exact ⟨word_of_op_byte hop, fun _ => rfl⟩
  · exact encode_of_decodeAlu hop h
  · obtain ⟨rfl, hz⟩ := (whenIgnorable_eq_known_iff ..).1 h
    exact ⟨word_of_op_nibbles hop, hz⟩
  · cases h; exact ⟨word_of_op_address hop, fun _ => rfl⟩
  · cases h; exact ⟨word_of_op_address hop, fun _ => rfl⟩
  · cases h; exact ⟨word_of_op_byte hop, fun _ => rfl⟩
  · cases h; exact ⟨word_of_op_nibbles hop, fun _ => rfl⟩
  · exact encode_of_decodeKeys hop h
  · have hlast : (fieldOp w).toNat = 0xF := by
      simp only [imp_false] at *
      omega
    exact encode_of_decodeMisc hlast h

/-! ## Unknown opcodes, by arithmetic on the opcode -/

section FieldArithmetic
variable (w : Word)

theorem fieldOp_toNat : (fieldOp w).toNat = w.toNat / 4096 := by
  have hw : w.toNat < 65536 := w.isLt
  simp only [fieldOp, BitVec.extractLsb'_toNat, Nat.shiftRight_eq_div_pow, Nat.reducePow]
  omega

theorem fieldX_toNat : (fieldX w).toNat = w.toNat / 256 % 16 := by
  simp only [fieldX, BitVec.extractLsb'_toNat, Nat.shiftRight_eq_div_pow, Nat.reducePow]

theorem fieldN_toNat : (fieldN w).toNat = w.toNat % 16 := by
  simp only [fieldN, BitVec.extractLsb'_toNat, Nat.shiftRight_zero, Nat.reducePow]

theorem fieldKK_toNat : (fieldKK w).toNat = w.toNat % 256 := by
  simp only [fieldKK, BitVec.extractLsb'_toNat, Nat.shiftRight_zero, Nat.reducePow]

theorem fieldKK_eq_iff (kk : Byte) : fieldKK w = kk ↔ w.toNat % 256 = kk.toNat := by
  rw [← fieldKK_toNat, BitVec.toNat_inj]

theorem fieldX_ne_zero_iff : fieldX w ≠ 0 ↔ w.toNat / 256 % 16 ≠ 0 := by
  rw [← fieldX_toNat, ne_eq, ne_eq, ← BitVec.toNat_inj]
  rfl

theorem fieldN_ne_zero_iff : fieldN w ≠ 0 ↔ w.toNat % 16 ≠ 0 := by
  rw [← fieldN_toNat, ne_eq, ne_eq, ← BitVec.toNat_inj]
  rfl

end FieldArithmetic

theorem decodeSystem_eq_unknown_iff (strict : Bool) (w : Word) : decodeSystem strict w = .unknown ↔
    (w.toNat % 256 ≠ 0xE0 ∧ w.toNat % 256 ≠ 0xEE) ∨ (strict = true ∧ w.toNat / 256 % 16 ≠ 0) := by
  simp only [decodeSystem, fieldKK_eq_iff, ← fieldX_ne_zero_iff]
  split_ifs <;> simp_all [whenIgnorable_eq_unknown_iff]

theorem decodeAlu_eq_unknown_iff (w : Word) : decodeAlu w = .unknown ↔ 8 ≤ w.toNat % 16 ∧ w.toNat % 16 ≠ 0xE := by
  have hlt : w.toNat % 16 < 16 := Nat.mod_lt _ (by decide)
  simp only [decodeAlu, fieldN_toNat]
  generalize w.toNat % 16 = n at hlt ⊢
  interval_cases n <;> simp

theorem decodeKeys_eq_unknown_iff (w : Word) :
    decodeKeys w = .unknown ↔ w.toNat % 256 ≠ 0x9E ∧ w.toNat % 256 ≠ 0xA1 := by
  simp only [decodeKeys, fieldKK_eq_iff]
  split_ifs <;> simp_all

theorem decodeMisc_eq_unknown_iff (w : Word) : decodeMisc w = .unknown ↔
    w.toNat % 256 ∉ [0x07, 0x0A, 0x15, 0x18, 0x1E, 0x29, 0x33, 0x55, 0x65] := by
  simp only [decodeMisc, fieldKK_eq_iff]
  split_ifs <;> simp_all

/-- Settles O20: the primary key selects one disjunct of the table, or none, and the secondary decoder settles it. -/
theorem unknownOpcodeSpace : Obligations.UnknownOpcodeSpace := by
  intro strict w
  have hlt : w.toNat / 4096 < 16 := by have := w.isLt; omega
  simp only [decode, fieldOp_toNat]
  generalize w.toNat / 4096 = op at hlt ⊢
  interval_cases op <;>
    simp [decodeSystem_eq_unknown_iff, decodeAlu_eq_unknown_iff, decodeKeys_eq_unknown_iff, decodeMisc_eq_unknown_iff,
      whenIgnorable_eq_unknown_iff, ← fieldN_ne_zero_iff]

end Sys2Proof

/-! PROOFS. The machine-readable table against the decoder (R118), and words of the spec (R117). -/

namespace Sys2Proof

/-- Settles O17: ten closed words, under each setting. -/
theorem specWordsDecode : Obligations.SpecWordsDecode := by
  intro strict
  cases strict <;> decide

/-! ## Every instruction has its row -/

theorem tablePattern (i : Instr) : Laws.TablePattern.Statement i := by
  cases i
  exacts [Laws.TablePattern.cls .., Laws.TablePattern.ret .., Laws.TablePattern.jp .., Laws.TablePattern.call ..,
    Laws.TablePattern.seImm .., Laws.TablePattern.sneImm .., Laws.TablePattern.seReg .., Laws.TablePattern.ldImm ..,
    Laws.TablePattern.addImm .., Laws.TablePattern.ldReg .., Laws.TablePattern.or .., Laws.TablePattern.and ..,
    Laws.TablePattern.xor .., Laws.TablePattern.addReg .., Laws.TablePattern.sub .., Laws.TablePattern.shr ..,
    Laws.TablePattern.subn .., Laws.TablePattern.shl .., Laws.TablePattern.sneReg .., Laws.TablePattern.ldI ..,
    Laws.TablePattern.jpV0 .., Laws.TablePattern.rnd .., Laws.TablePattern.drw .., Laws.TablePattern.skp ..,
    Laws.TablePattern.sknp .., Laws.TablePattern.ldVxDT .., Laws.TablePattern.ldVxK .., Laws.TablePattern.ldDT ..,
    Laws.TablePattern.ldST .., Laws.TablePattern.addI .., Laws.TablePattern.ldF .., Laws.TablePattern.ldB ..,
    Laws.TablePattern.ldMemStore .., Laws.TablePattern.ldMemLoad ..]

/-- The rows whose strict mask looks at more bits are those of the four instructions with ignored bits (R109, R118). -/
theorem strictMask_eq_mask_or : ∀ row ∈ opcodeTable,
    row.strictMask = row.mask ∨ row.mnemonic ∈ ["CLS", "RET", "SE_reg", "SNE_reg"] := by decide

/-- The opcode of an instruction that a setting admits selects the instruction's row under the setting's mask (R118). -/
theorem encode_selects_row (strict : Bool) (i : Instr) (hwf : i.WellFormed strict) :
    ∃ row ∈ opcodeTable, row.Selects strict (encode i) ∧ row.mnemonic = i.mnemonic := by
  obtain ⟨row, hrow, hname, hmask⟩ := tablePattern i
  cases strict with
  | false => exact ⟨row, hrow, hmask, hname⟩
  | true =>
    obtain hsame | hfour := strictMask_eq_mask_or row hrow
    · exact ⟨row, hrow, by rwa [TableRow.Selects, TableRow.maskFor, if_pos rfl, hsame], hname⟩
    · rw [hname] at hfour
      have hz : i.ignoredBits = 0 := hwf rfl
      cases i with
      | cls z => obtain rfl : z = 0 := hz; exact ⟨⟨"CLS", 0x00E0, 0xF0FF, 0xFFFF⟩, by decide⟩
      | ret z => obtain rfl : z = 0 := hz; exact ⟨⟨"RET", 0x00EE, 0xF0FF, 0xFFFF⟩, by decide⟩
      | seReg x y z =>
        obtain rfl : z = 0 := hz
        exact ⟨⟨"SE_reg", 0x5000, 0xF000, 0xF00F⟩, by decide, (Laws.TablePattern.mask_op_low ..).trans (by decide), rfl⟩
      | sneReg x y z =>
        obtain rfl : z = 0 := hz
        exact ⟨⟨"SNE_reg", 0x9000, 0xF000, 0xF00F⟩, by decide, (Laws.TablePattern.mask_op_low ..).trans (by decide), rfl⟩
      | _ => simp [Instr.mnemonic] at hfour

/-! ## An opcode that selects a row decodes -/

section Masks
variable {w p : Word}

theorem fieldOp_and (w m : Word) : fieldOp (w &&& m) = fieldOp w &&& fieldOp m := BitVec.extractLsb'_and

theorem fieldN_and (w m : Word) : fieldN (w &&& m) = fieldN w &&& fieldN m := BitVec.extractLsb'_and

theorem fieldKK_and (w m : Word) : fieldKK (w &&& m) = fieldKK w &&& fieldKK m := BitVec.extractLsb'_and

/-- A mask that keeps a field keeps it. -/
theorem fieldOp_of_mask {m : Word} (hm : fieldOp m = BitVec.allOnes 4) (h : w &&& m = p) : fieldOp w = fieldOp p := by
  rw [← h, fieldOp_and, hm, BitVec.and_allOnes]

theorem fieldN_of_mask {m : Word} (hm : fieldN m = BitVec.allOnes 4) (h : w &&& m = p) : fieldN w = fieldN p := by
  rw [← h, fieldN_and, hm, BitVec.and_allOnes]

theorem fieldKK_of_mask {m : Word} (hm : fieldKK m = BitVec.allOnes 8) (h : w &&& m = p) : fieldKK w = fieldKK p := by
  rw [← h, fieldKK_and, hm, BitVec.and_allOnes]

end Masks

/-- The kinds of rows, by the fields the setting's mask keeps: the primary key alone, where it is the whole key; the primary
key and `n`; the primary key and `kk`; or the whole opcode. -/
theorem row_kinds (strict : Bool) : ∀ row ∈ opcodeTable, decode strict row.pattern ≠ .unknown ∧
    fieldOp (row.maskFor strict) = BitVec.allOnes 4 ∧
    ((fieldOp row.pattern).toNat ∈ [1, 2, 3, 4, 6, 7, 10, 11, 12, 13] ∨
     (strict = false ∧ (fieldOp row.pattern).toNat ∈ [5, 9]) ∨
     ((fieldOp row.pattern).toNat ∈ [5, 8, 9] ∧ fieldN (row.maskFor strict) = BitVec.allOnes 4) ∨
     ((fieldOp row.pattern).toNat ∈ [14, 15] ∧ fieldKK (row.maskFor strict) = BitVec.allOnes 8) ∨
     (strict = false ∧ (fieldOp row.pattern).toNat = 0 ∧ fieldKK (row.maskFor strict) = BitVec.allOnes 8) ∨
     row.maskFor strict = BitVec.allOnes 16) := by
  cases strict <;> decide

/-- Two rows that one opcode could select agree where both masks look; no two different rows of the table do. -/
theorem rows_eq_of_compatible (strict : Bool) : ∀ row ∈ opcodeTable, ∀ row' ∈ opcodeTable,
    row.pattern &&& row'.maskFor strict = row'.pattern &&& row.maskFor strict → row = row' := by
  cases strict <;> decide

/-- An opcode that selects a row is as known as the row's own pattern, because the decoder looks only where the mask
does. -/
theorem decode_ne_unknown_of_selects {strict : Bool} {w : Word} {row : TableRow} (hrow : row ∈ opcodeTable)
    (hsel : row.Selects strict w) : decode strict w ≠ .unknown := by
  obtain ⟨hpat, hmask, hkind⟩ := row_kinds strict row hrow
  refine fun hw => hpat ?_
  have hop : w.toNat / 4096 = row.pattern.toNat / 4096 := by
    rw [← fieldOp_toNat, ← fieldOp_toNat, fieldOp_of_mask hmask hsel]
  have hkk (hm : fieldKK (row.maskFor strict) = BitVec.allOnes 8) : w.toNat % 256 = row.pattern.toNat % 256 := by
    rw [← fieldKK_toNat, ← fieldKK_toNat, fieldKK_of_mask hm hsel]
  have hn (hm : fieldN (row.maskFor strict) = BitVec.allOnes 4) : w.toNat % 16 = row.pattern.toNat % 16 := by
    rw [← fieldN_toNat, ← fieldN_toNat, fieldN_of_mask hm hsel]
  simp only [fieldOp_toNat, List.mem_cons, List.not_mem_nil, or_false] at hkind
  rw [unknownOpcodeSpace] at hw ⊢
  rw [hop] at hw
  obtain hkey | ⟨rfl, hkey⟩ | ⟨hkey, hm⟩ | ⟨hkey, hm⟩ | ⟨rfl, hkey, hm⟩ | hall := hkind
  · omega
  · simp only [Bool.false_eq_true, false_and, or_false] at hw
    omega
  · rw [hn hm] at hw
    obtain hkey | hkey | hkey := hkey <;> simp_all
  · rw [hkk hm] at hw
    obtain hkey | hkey := hkey <;> simp_all
  · rw [hkk hm] at hw
    simp_all
  · rw [TableRow.Selects, hall, BitVec.and_allOnes] at hsel
    rwa [hsel] at hw

/-- Settles O21: a known opcode is its instruction's encoding, which selects the instruction's row; an Unknown one selects
none; and two rows one opcode selects are compatible, so equal. -/
theorem decoderAgreesWithTable : Obligations.DecoderAgreesWithTable := by
  refine fun strict w => ⟨fun i h => ?_, fun h row hrow hsel => decode_ne_unknown_of_selects hrow hsel h, ?_⟩
  · obtain ⟨rfl, hwf⟩ := encodeOfDecode strict w i h
    exact encode_selects_row strict i hwf
  · intro row hrow row' hrow' hsel hsel'
    refine rows_eq_of_compatible strict row hrow row' hrow' ?_
    rw [← hsel, ← hsel', BitVec.and_assoc, BitVec.and_assoc, BitVec.and_comm (row.maskFor strict)]

end Sys2Proof

/-! PROOFS. Registers, ALU and timers: instructions of class `Seq` that write registers or one other part (R134, R190 to
R203, R260 to R262). -/

namespace Sys2Proof.Machine

/-- The class `Seq` after a change that does not write `PC` moves `PC` on (R134). -/
theorem seq_advanced {s u : State} (hpc : u.pc = s.pc) : Advanced 1 s u.seq :=
  advanced_of_pc (by rw [State.seq_eq, State.jump_pc, hpc])

/-- The class `Seq` adds `PC` to what a change writes. -/
theorem seq_changes {ps : List Part} {s u : State} (h : ChangesOnly ps s u) : ChangesOnly (ps ++ [.pc]) s u.seq :=
  (h.mono (List.subset_append_left ..)).trans ((jump_changes u _).mono (List.subset_append_right ..))

/-! ## One register -/

theorem addResult_toNat (a b : Byte) : (addResult a b).toNat = (a.toNat + b.toNat) % 256 := BitVec.toNat_ofNat ..

/-- Settles O23: both write one register and fall through. -/
theorem addImmediateAndCopy : Obligations.AddImmediateAndCopy := by
  intro s x y kk
  refine ⟨⟨_, rfl, ?_, setV_seq_onlyV s x _, setV_seq_advanced s x _, setV_seq_changes s x _⟩,
    _, rfl, setV_seq_getV_self s x _, setV_seq_onlyV s x _, setV_seq_advanced s x _, setV_seq_changes s x _⟩
  rw [setV_seq_getV_self, addResult_toNat]

/-- Settles O39: one register or one timer is written, and `PC` moves on. -/
theorem timerInstructions : Obligations.TimerInstructions := by
  intro s x
  exact ⟨⟨_, rfl, setV_seq_getV_self s x _, setV_seq_onlyV s x _, setV_seq_advanced s x _, setV_seq_changes s x _⟩,
    ⟨_, rfl, rfl, advanced_of_pc rfl, seq_changes (dt_changes s _)⟩, _, rfl, rfl, advanced_of_pc rfl,
    seq_changes (st_changes s _)⟩

/-- Settles O26: the source's answer is the new event; the register gets it masked. -/
theorem randomByteMasked : Obligations.RandomByteMasked := by
  intro s x kk
  refine ⟨_, s.randomAnswer, rfl, setV_seq_getV_self s.askRandom x _, rfl, setV_seq_onlyV s.askRandom x _,
    setV_seq_advanced s.askRandom x _, ?_, fun r rest h => ?_⟩
  · exact ((askRandom_changes s).mono (by simp)).trans ((setV_seq_changes s.askRandom x _).mono (by simp))
  · simp [State.randomAnswer, h]

/-! ## Result and flag -/

/-- What `WriteRF` and the fall through leave (R134, R190). -/
theorem writeRF_seq (s : State) (x : Nibble) (result flag : Byte) :
    Advanced 1 s (s.writeRF x result flag).seq ∧ ChangesOnly [.v, .pc] s (s.writeRF x result flag).seq ∧
      WroteRF s (s.writeRF x result flag).seq x result flag := by
  have hchanges := writeRF_changes s x result flag
  obtain ⟨hx, hvf, hboth, hothers⟩ := writeRF_wrote s x result flag
  exact ⟨seq_advanced (hchanges .pc (by decide)), seq_changes hchanges, hx, hvf, hboth, hothers⟩

theorem addResult_eq (a b : Byte) : addResult a b = BitVec.ofNat 8 ((a.toNat + b.toNat) % 256) :=
  BitVec.eq_of_toNat_eq (by simp [addResult])

theorem subResult_eq (a b : Byte) : subResult a b = BitVec.ofNat 8 ((a.toNat + 256 - b.toNat) % 256) := by
  have hb : b.toNat < 256 := b.isLt
  apply BitVec.eq_of_toNat_eq
  simp only [subResult, BitVec.toNat_ofInt, BitVec.toNat_ofNat]
  omega

theorem shlResult_eq (a : Byte) : shlResult a = BitVec.ofNat 8 (a.toNat * 2 % 256) :=
  BitVec.eq_of_toNat_eq (by simp [shlResult])

theorem carryFlag_eq (a b : Byte) : carryFlag a b = if 255 < a.toNat + b.toNat then 1 else 0 := by
  simp [carryFlag, flagByte]

theorem noBorrowFlag_eq (a b : Byte) : noBorrowFlag a b = if b.toNat ≤ a.toNat then 1 else 0 := by
  simp [noBorrowFlag, flagByte]

theorem shrFlag_eq (a : Byte) : shrFlag a = BitVec.ofNat 8 (a.toNat % 2) := by
  have hbit : a.getLsbD 0 = decide (a.toNat % 2 = 1) := by simp [BitVec.getLsbD, Nat.testBit_zero]
  rw [shrFlag, flagByte, hbit]
  rcases Nat.mod_two_eq_zero_or_one a.toNat with h | h <;> simp [h]

theorem shlFlag_eq (a : Byte) : shlFlag a = BitVec.ofNat 8 (a.toNat / 128) := by
  have hbit : a.getLsbD 7 = decide (a.toNat / 128 % 2 = 1) := by
    simp [BitVec.getLsbD, Nat.testBit_eq_decide_div_mod_eq]
  have hlt : a.toNat < 256 := a.isLt
  have hcases : a.toNat / 128 = 0 ∨ a.toNat / 128 = 1 := by omega
  rw [shlFlag, flagByte, hbit]
  rcases hcases with h | h <;> simp [h]

theorem shiftSource_toNat (s : State) (x y : Nibble) : (shiftSource s x y).toNat =
    if s.cfg.shiftUsesVy then (s.getV y).toNat else (s.getV x).toNat := by
  unfold shiftSource
  split <;> rfl

/-- Settles O24: each of the five is `WriteRF` of its result and flag, which are the exact integers' bytes. -/
theorem arithmeticLaws : Obligations.ArithmeticLaws := by
  rintro s x y a b src rfl rfl hsrc
  rw [← shiftSource_toNat s x y] at hsrc
  subst hsrc
  rw [← addResult_eq, ← subResult_eq, ← subResult_eq, ← shlResult_eq, ← carryFlag_eq, ← noBorrowFlag_eq, ← noBorrowFlag_eq,
    ← shrFlag_eq, ← shlFlag_eq]
  exact ⟨⟨_, rfl, writeRF_seq ..⟩, ⟨_, rfl, writeRF_seq ..⟩, ⟨_, rfl, writeRF_seq ..⟩, ⟨_, rfl, writeRF_seq ..⟩,
    _, rfl, writeRF_seq ..⟩

theorem vfReset_iff (s : State) : vfReset s.cfg = true ↔ s.Classic := by
  cases hd : s.cfg.dialect <;> simp [vfReset, State.Classic, hd]

/-- What the write of a bitwise result and the fall through leave, by the dialect (R195 to R197). -/
theorem writeBitwise_seq (s : State) (x : Nibble) (result : Byte) :
    Advanced 1 s (writeBitwise s x result).seq ∧ ChangesOnly [.v, .pc] s (writeBitwise s x result).seq ∧
      (s.Classic → WroteRF s (writeBitwise s x result).seq x result 0) ∧
      (¬ s.Classic → (writeBitwise s x result).seq.getV x = result ∧ OnlyV x s (writeBitwise s x result).seq) := by
  by_cases hc : s.Classic
  · obtain ⟨hpc, hchanges, hwrote⟩ := writeRF_seq s x result (flagByte false)
    rw [writeBitwise, if_pos ((vfReset_iff s).2 hc)]
    exact ⟨hpc, hchanges, fun _ => hwrote, fun h => absurd hc h⟩
  · rw [writeBitwise, if_neg (mt (vfReset_iff s).1 hc)]
    exact ⟨setV_seq_advanced s x result, setV_seq_changes s x result, fun h => absurd h hc,
      fun _ => ⟨setV_seq_getV_self s x result, setV_seq_onlyV s x result⟩⟩

/-- Settles O25: the three differ only in the result they write. -/
theorem bitwiseWithVfReset : Obligations.BitwiseWithVfReset := by
  rintro s i x y result (⟨rfl, rfl⟩ | ⟨rfl, rfl⟩ | ⟨rfl, rfl⟩)
  · exact ⟨_, rfl, writeBitwise_seq s x _⟩
  · exact ⟨_, rfl, writeBitwise_seq s x _⟩
  · exact ⟨_, rfl, writeBitwise_seq s x _⟩

/-! ## The index register -/

/-- The digit `LD F, Vx` takes: the value where the setting takes it whole or it is one digit, else its low nibble (R232). -/
theorem fontDigit_of_unmasked_or {s : State} {x : Nibble} (h : s.cfg.fontIndex = .unmasked ∨ (s.getV x).toNat ≤ 15) :
    fontDigit s x = (s.getV x).toNat := by
  unfold fontDigit
  split
  · rfl
  · rename_i hlow
    have hle := h.resolve_left fun hu => nomatch hu.symm.trans hlow
    exact Nat.mod_eq_of_lt (Nat.lt_succ_of_le hle)

theorem fontDigit_of_lowNibble {s : State} {x : Nibble} (h : s.cfg.fontIndex = .lowNibble) :
    fontDigit s x = (s.getV x).toNat % 16 := by simp only [fontDigit, h]

theorem fontDigit_lt (s : State) (x : Nibble) : fontDigit s x < 256 := by
  have hv : (s.getV x).toNat < 256 := (s.getV x).isLt
  unfold fontDigit
  split <;> omega

/-- Settles O34: `I` is computed modulo 65536, which no address and no digit reaches. -/
theorem indexArithmetic : Obligations.IndexArithmetic := by
  intro s x nnn
  have hldI : (BitVec.ofNat 16 nnn.toNat).toNat = nnn.toNat := by
    have := nnn.isLt
    rw [BitVec.toNat_ofNat]
    omega
  have hldF : (BitVec.ofNat 16 (fontBase + fontStride * fontDigit s x)).toNat = 5 * fontDigit s x := by
    have := fontDigit_lt s x
    rw [BitVec.toNat_ofNat, fontBase, fontStride]
    omega
  exact ⟨⟨_, rfl, hldI, advanced_of_pc rfl, seq_changes (setI_changes s _)⟩,
    ⟨_, rfl, BitVec.toNat_ofNat .., advanced_of_pc rfl, seq_changes (setI_changes s _)⟩,
    _, rfl, advanced_of_pc rfl, seq_changes (setI_changes s _),
    fun h => hldF.trans (congrArg _ (fontDigit_of_unmasked_or h)),
    fun h => hldF.trans (congrArg _ (fontDigit_of_lowNibble h))⟩

end Sys2Proof.Machine

/-! PROOFS. Control transfer (R160 to R172): jumps, the call stack, and skips. -/

namespace Sys2Proof.Machine

/-! ## Jumps -/

/-- A 12-bit address is below 4096, so `PC` gets it as it is (R39). -/
theorem jump_addr_pc_toNat (s : State) (nnn : Addr) : (s.jump nnn.toNat).pc.toNat = nnn.toNat :=
  (jump_pc_toNat ..).trans (Nat.mod_eq_of_lt nnn.isLt)

/-- Settles O27: `1nnn` is `JP`'s own encoding, and its execute phase is one write of `PC`. -/
theorem jumpAbsolute : Obligations.JumpAbsolute := by
  intro strict s nnn
  exact ⟨decodeOfEncode strict (.jp nnn) fun _ => rfl, _, rfl, jump_addr_pc_toNat s nnn, jump_changes s _⟩

theorem jumpTarget_append (s : State) (x : Nibble) (low : Byte) : jumpTarget s (x ++ low) =
    x.toNat * 256 + low.toNat + (s.getV (if s.cfg.jumpUsesVx then x else 0)).toNat := by
  have haddr : (x ++ low : Addr).toNat = x.toNat * 256 + low.toNat := by
    rw [BitVec.toNat_append, ← Nat.shiftLeft_add_eq_or_of_lt low.isLt, Nat.shiftLeft_eq]
  have htop : (x ++ low : Addr).extractLsb' 8 4 = x := BitVec.extractLsb'_append_eq_left
  rw [jumpTarget, haddr, jumpRegister, htop]

/-- Settles O28: the address and the register are the two summands of the target. -/
theorem jumpPlusRegister : Obligations.JumpPlusRegister := by
  intro s x low
  refine ⟨_, rfl, ?_, jump_changes s _⟩
  rw [jump_pc_toNat, jumpTarget_append]

/-! ## The call stack -/

theorem returnAddress_toNat (s : State) : (returnAddress s).toNat = (s.pc.toNat + 2) % 4096 := by
  simp only [returnAddress, memSize, BitVec.toNat_ofNat]
  omega

section Pushed
variable (s : State) (w : Word) (h : s.sp.val < stackDepth)

theorem pushedState_stack_top : (pushedState s w h).stack[s.sp.val] = w := Vector.getElem_set_self _

theorem pushedState_stack_ne {k : Nat} (hk : k < 16) (hne : k ≠ s.sp.val) : (pushedState s w h).stack[k] = s.stack[k] :=
  Vector.getElem_set_ne h hk hne.symm

end Pushed

/-- Settles O29: below the full depth the push and the jump, at it the raise. -/
theorem callPushesAndJumps : Obligations.CallPushesAndJumps := by
  refine fun s nnn => ⟨fun h => ⟨_, exec_call_of_lt s nnn h, jump_addr_pc_toNat _ nnn, rfl, ?_, ?_, ?_⟩, fun h => ?_⟩
  · exact (congrArg BitVec.toNat (pushedState_stack_top s _ h)).trans (returnAddress_toNat s)
  · exact fun k hk hne => pushedState_stack_ne s _ h hk hne
  · exact ((pushedState_changes s _ h).mono (by simp)).trans ((jump_changes _ _).mono (by simp))
  · exact ⟨_, exec_call_of_full s nnn h, raise_endsSession ..⟩

/-- Settles O30: above depth 0 the pop and the jump, at it the raise. -/
theorem returnPopsAndJumps : Obligations.ReturnPopsAndJumps := by
  refine fun s z => ⟨fun h => ⟨_, exec_ret_of_ne s z h, rfl, jump_pc_toNat .., ?_⟩, fun h => ?_⟩
  · exact ((poppedState_changes s).mono (by simp)).trans ((jump_changes _ _).mono (by simp))
  · exact ⟨_, exec_ret_of_empty s z h, raise_endsSession ..⟩

/-- Settles O31: the `RET` pops the entry the `CALL` pushed, so `PC` is the return address and the depth the old one. -/
theorem callThenReturn : Obligations.CallThenReturn := by
  intro s nnn z h
  refine ⟨_, _, exec_call_of_lt s nnn h, exec_ret_of_ne _ z (Nat.succ_ne_zero _), ?_, rfl, fun k hk hlt => ?_, ?_⟩
  · have htop := congrArg BitVec.toNat (pushedState_stack_top s (returnAddress s) h)
    refine (jump_pc_toNat ..).trans ((congrArg (· % memSize) (htop.trans (returnAddress_toNat s))).trans ?_)
    exact Nat.mod_mod ..
  · exact pushedState_stack_ne s _ h hk (Nat.ne_of_lt hlt)
  · intro p hp
    cases p <;> simp_all [Part.Same, poppedState, pushedState, State.getV]

/-! ## Skips -/

/-- A skip moves `PC` by 4 on its condition and by 2 otherwise (R134). -/
theorem skip_advanced (s : State) (c : Bool) : Advanced (if c then 2 else 1) s (s.skip c) :=
  advanced_of_pc rfl

theorem skip_changes (s : State) (c : Bool) : ChangesOnly [.pc] s (s.skip c) := jump_changes s _

/-- Settles O32: each of the four is the skip of its own comparison. -/
theorem skipsOnValues : Obligations.SkipsOnValues := by
  intro s x y z kk
  have heq (a b : Byte) : Advanced (if a = b then 2 else 1) s (s.skip (a == b)) := by simpa using skip_advanced s (a == b)
  have hne (a b : Byte) : Advanced (if a = b then 1 else 2) s (s.skip (a != b)) := by
    by_cases hab : a = b <;> simpa [hab] using skip_advanced s (a != b)
  exact ⟨⟨_, rfl, heq _ _, skip_changes s _⟩, ⟨_, rfl, hne _ _, skip_changes s _⟩, ⟨_, rfl, heq _ _, skip_changes s _⟩,
    _, rfl, hne _ _, skip_changes s _⟩

section KeySkip
variable (s : State) (k : Nibble) (c : Bool)

theorem askPressed_skip_changes : ChangesOnly [.pc, .events, .keyAnswers, .draws] s ((s.askPressed k).skip c) :=
  ((askPressed_changes s k).mono (by simp)).trans ((skip_changes _ c).mono (by simp))

/-- An answer the host has placed is the one given, and it is used up (log entry 9). -/
theorem askPressed_of_cons {b : Bool} {rest : List Bool} (h : s.keyAnswers = b :: rest) :
    s.pressedAnswer k = b ∧ (s.askPressed k).keyAnswers = rest ∧ (s.askPressed k).draws = s.draws := by
  simp [State.pressedAnswer, h]

theorem askPressed_of_nil (h : s.keyAnswers = []) : (s.askPressed k).keyAnswers = [] := by simp [h]

end KeySkip

/-- Settles O33: up to 15 both ask for the same key and skip on opposite conditions; above it both raise. -/
theorem skipsOnKeys : Obligations.SkipsOnKeys := by
  refine fun s x => ⟨fun hkey => ?_, fun hout => ?_⟩
  · have hk : (BitVec.ofNat 4 (s.getV x).toNat).toNat = (s.getV x).toNat := by
      rw [BitVec.toNat_ofNat]
      omega
    refine ⟨_, _, _, s.pressedAnswer _, hk, exec_skp_of_key s x hkey, exec_sknp_of_key s x hkey, advanced_of_pc rfl, ?_,
      rfl, rfl, askPressed_skip_changes s _ _, askPressed_skip_changes s _ _, rfl, rfl, rfl, rfl, fun b rest h => ?_, fun h => ?_⟩
    · generalize s.pressedAnswer _ = b
      cases b <;> exact advanced_of_pc rfl
    · obtain ⟨hb, hrest, hdraws⟩ := askPressed_of_cons s (BitVec.ofNat 4 (s.getV x).toNat) h
      exact ⟨hb, hrest, hdraws, hrest, hdraws⟩
    · have hnil := askPressed_of_nil s (BitVec.ofNat 4 (s.getV x).toNat) h
      exact ⟨hnil, hnil⟩
  · exact ⟨_, _, exec_skp_of_not_key s x hout, exec_sknp_of_not_key s x hout, raise_endsSession .., raise_endsSession ..⟩

end Sys2Proof.Machine

/-! PROOFS. Blocks of memory (R72 to R84, R233 to R236): what the transfers put where, and that the next fetch sees it. -/

namespace Sys2Proof.Machine

/-! ## I after a block -/

theorem indexIncrement_iff (s : State) : indexIncrement s.cfg = true ↔ s.Classic := by
  cases hd : s.cfg.dialect <;> simp [indexIncrement, State.Classic, hd]

theorem indexAfterBlock_of_classic {s : State} (h : s.Classic) (x : Nibble) :
    (BitVec.ofNat 16 (indexAfterBlock s x)).toNat = (s.i.toNat + x.toNat + 1) % 65536 := by
  rw [indexAfterBlock, if_pos ((indexIncrement_iff s).2 h), BitVec.toNat_ofNat]

theorem indexAfterBlock_of_not_classic {s : State} (h : ¬ s.Classic) (x : Nibble) :
    BitVec.ofNat 16 (indexAfterBlock s x) = s.i := by
  rw [indexAfterBlock, if_neg (mt (indexIncrement_iff s).1 h), BitVec.ofNat_toNat, BitVec.setWidth_eq]

/-! ## Stores -/

/-- Settles O35: the three digits are a block at `I`, stored when it fits and raised on when it does not. -/
theorem decimalStore : Obligations.DecimalStore := by
  refine fun s x => ⟨fun hin => ⟨_, exec_ldB_of_inRange s x hin, advanced_of_pc rfl, seq_changes (mem_changes s _), ?_, ?_⟩,
    fun hout => ⟨_, exec_ldB_of_outside s x hout, raise_endsSession ..⟩⟩
  · exact fun a ha => read_writeBytes_other _ _ _ ha
  · intro hwf
    have hv : (s.getV x).toNat < 256 := (s.getV x).isLt
    have hdigit (j : Nat) (hj : j < 3) := congrArg BitVec.toNat
      (read_writeBytes_same hwf (bs := decimalDigits (s.getV x)) hin (j := j) hj)
    refine ⟨(hdigit 0 (by decide)).trans ?_, (hdigit 1 (by decide)).trans ?_, (hdigit 2 (by decide)).trans ?_⟩ <;>
      simp only [decimalDigits, List.getElem_cons_zero, List.getElem_cons_succ, BitVec.toNat_ofNat] <;> omega

theorem registerBlock_length (s : State) (x : Nibble) : (registerBlock s x).length = x.toNat + 1 := by
  simp [registerBlock]

theorem registerBlock_getElem (s : State) (x r : Nibble) (h : r.toNat < (registerBlock s x).length) :
    (registerBlock s x)[r.toNat] = s.getV r := by
  simp [registerBlock]

/-- After a block store that fits each register up to `x` is at its place (R234). -/
theorem read_registerBlock {s : State} {x r : Nibble} (hwf : s.mem.wf = true) (hin : s.i.toNat + (x.toNat + 1) ≤ memSize)
    (hr : r.toNat ≤ x.toNat) :
    (s.mem.writeBytes s.i.toNat (registerBlock s x)).read (s.i.toNat + r.toNat) = s.getV r := by
  have hlen := registerBlock_length s x
  rw [read_writeBytes_same hwf (by omega) (by omega), registerBlock_getElem]

/-- Settles O36: the registers are a block at `I`, stored when it fits and raised on when it does not. -/
theorem blockStore : Obligations.BlockStore := by
  refine fun s x => ⟨fun hin => ⟨_, exec_ldMemStore_of_inRange s x hin, advanced_of_pc rfl, ?_, ?_, ?_,
      fun hc => indexAfterBlock_of_classic hc x, fun hc => indexAfterBlock_of_not_classic hc x⟩,
    fun hout => ⟨_, exec_ldMemStore_of_outside s x hout, raise_endsSession ..⟩⟩
  · exact seq_changes (ps := [.mem, .i]) (((mem_changes s _).mono (by simp)).trans ((setI_changes _ _).mono (by simp)))
  · refine fun a ha => read_writeBytes_other _ _ _ ?_
    rw [registerBlock_length]
    omega
  · exact fun hwf r hr => read_registerBlock hwf hin hr

/-- Settles O38: the two bytes of the fetch at `PC + 2 = I` are the block's first two. -/
theorem nextFetchSeesTheStore : Obligations.NextFetchSeesTheStore := by
  intro s t x hwf hx hi hin h
  obtain rfl := Host.Outcome.next.inj ((exec_ldMemStore_of_inRange s x hin).symm.trans h)
  have hpc : ((s.pc.toNat + 2) % memSize) = s.i.toNat := by
    rw [hi, Nat.mod_eq_of_lt]
    simp only [memSize]
    omega
  have h0 := read_registerBlock (r := 0) hwf hin (Nat.zero_le _)
  have h1 := read_registerBlock (r := 1) hwf hin hx
  rw [State.seq_eq, jump_pc_toNat]
  refine (congrArg _ hpc).trans ?_
  exact congrArg₂ (fun hi lo : Byte => (hi ++ lo : Word)) h0 h1

/-! ## The load -/

/-- Settles O37: the bytes from `I` on are loaded from `V[0]` on when the block fits, and raised on when it does not. -/
theorem blockLoad : Obligations.BlockLoad := by
  refine fun s x => ⟨fun hin => ?_, fun hout => ⟨_, exec_ldMemLoad_of_outside s x hout, raise_endsSession ..⟩⟩
  have hlen : (s.mem.readBytes s.i.toNat (x.toNat + 1)).length = x.toNat + 1 := readBytes_length ..
  have hfit : 0 + (s.mem.readBytes s.i.toNat (x.toNat + 1)).length ≤ 16 := by have := x.isLt; omega
  have hregs := loadRegs_getV s _ 0 hfit
  have hchanges := loadRegs_changes s (s.mem.readBytes s.i.toNat (x.toNat + 1)) 0
  refine ⟨_, exec_ldMemLoad_of_inRange s x hin, seq_advanced (hchanges .pc (by decide)), ?_, fun r hr => ?_, fun r hr => ?_,
    fun hc => indexAfterBlock_of_classic hc x, fun hc => indexAfterBlock_of_not_classic hc x⟩
  · exact seq_changes (ps := [.v, .i]) ((hchanges.mono (by simp)).trans ((setI_changes _ _).mono (by simp)))
  · refine (hregs r).trans ?_
    rw [dif_pos (by omega), readBytes_getElem, Nat.sub_zero]
  · exact (hregs r).trans (dif_neg (by omega))

end Sys2Proof.Machine

/-! PROOFS. The display (R280 to R287): a blit toggles the covered cells once each, because no two of its bits have one target
on a screen wider than a byte and higher than a sprite. -/

namespace Sys2Proof.Machine

/-- From `b` to `b'` each cell in `P` has been toggled, every other cell kept, and a hit has been recorded if one of the
toggled cells was true (R282, R283). -/
structure Toggles (P : Nat → Nat → Prop) (b b' : BlitState) : Prop where
  on  : ∀ r c, P r c → b'.grid.cell r c = !b.grid.cell r c
  off : ∀ r c, ¬ P r c → b'.grid.cell r c = b.grid.cell r c
  hit : b'.hit = true ↔ b.hit = true ∨ ∃ r c, P r c ∧ b.grid.cell r c = true

namespace Toggles
variable {P Q R : Nat → Nat → Prop} {b b' b'' : BlitState}

theorem nothing (h : ∀ r c, ¬ P r c) (b : BlitState) : Toggles P b b where
  on r c hp := absurd hp (h r c)
  off _ _ _ := rfl
  hit := ⟨.inl, fun hor => hor.resolve_right fun ⟨r, c, hp, _⟩ => h r c hp⟩

/-- Two sets of cells toggled one after the other are toggled together when no cell is in both. -/
theorem trans (hbb' : Toggles P b b') (hb'b'' : Toggles Q b' b'') (hdisjoint : ∀ r c, P r c → ¬ Q r c)
    (hR : ∀ r c, R r c ↔ P r c ∨ Q r c) : Toggles R b b'' where
  on r c hr := by
    obtain hp | hq := (hR r c).1 hr
    · rw [hb'b''.off r c (hdisjoint r c hp), hbb'.on r c hp]
    · rw [hb'b''.on r c hq, hbb'.off r c fun hp => hdisjoint r c hp hq]
  off r c hr := by
    obtain ⟨hp, hq⟩ := not_or.1 (mt (hR r c).2 hr)
    rw [hb'b''.off r c hq, hbb'.off r c hp]
  hit := by
    have hkept : (∃ r c, Q r c ∧ b'.grid.cell r c = true) ↔ ∃ r c, Q r c ∧ b.grid.cell r c = true :=
      exists_congr fun r => exists_congr fun c => and_congr_right fun hq => by
        rw [hbb'.off r c fun hp => hdisjoint r c hp hq]
    simp only [hb'b''.hit, hbb'.hit, hkept, hR, or_and_right, exists_or, or_assoc]

end Toggles

/-! ## The blit -/

theorem cell_congr (g : Grid) {r r' c c' : Nat} (hr : r' % screenH = r % screenH) (hc : c' % screenW = c % screenW) :
    g.cell r' c' = g.cell r c := by
  simp only [Grid.cell, hr, hc]

theorem blitBit_toggles (b : BlitState) (r c : Nat) (bit : Bool) :
    Toggles (fun r' c' => bit = true ∧ r' % screenH = r % screenH ∧ c' % screenW = c % screenW) b
      (blitBit b r c bit) where
  on r' c' h := by rw [blitBit_cell, if_pos h.2, h.1, Bool.xor_true]
  off r' c' h := by
    rw [blitBit_cell]
    split
    · rename_i htarget
      rw [Bool.eq_false_iff.2 fun hbit => h ⟨hbit, htarget⟩, Bool.xor_false]
    · rfl
  hit := by
    rw [blitBit_hit, Bool.or_eq_true, Bool.and_eq_true]
    refine or_congr_right ⟨fun ⟨hbit, hcell⟩ => ⟨r, c, ⟨hbit, rfl, rfl⟩, hcell⟩, ?_⟩
    rintro ⟨r', c', ⟨hbit, hr, hc⟩, hcell⟩
    exact ⟨hbit, cell_congr b.grid hr hc ▸ hcell⟩

/-- The cells the first `k` bits of a sprite byte at a row cover (R282). -/
def ByteCovers (col0 r : Nat) (byte : Byte) (k r' c' : Nat) : Prop :=
  ∃ c, c < k ∧ byte.getLsbD (7 - c) = true ∧ r' % screenH = r % screenH ∧ c' % screenW = (col0 + c) % screenW

/-- Eight columns are fewer than the screen's, so the bits of a byte have different targets. -/
theorem blitBits_toggles (col0 r : Nat) (byte : Byte) (b : BlitState) (k : Nat) (hk : k ≤ 8) :
    Toggles (ByteCovers col0 r byte k) b
      ((List.range k).foldl (fun acc c => blitBit acc r (col0 + c) (byte.getLsbD (7 - c))) b) := by
  induction k with
  | zero => exact .nothing (fun r' c' ⟨c, hc, _⟩ => Nat.not_lt_zero c hc) b
  | succ k ih =>
    rw [List.range_succ, List.foldl_append]
    refine (ih (by omega)).trans (blitBit_toggles _ r (col0 + k) _) ?_ fun r' c' => ⟨?_, ?_⟩
    · rintro r' c' ⟨c, hc, -, -, htarget⟩ ⟨-, -, htarget'⟩
      simp only [screenW] at htarget htarget'
      omega
    · rintro ⟨c, hc, hbit, hr, hcol⟩
      obtain hlt | rfl := Nat.lt_succ_iff_lt_or_eq.1 hc
      · exact .inl ⟨c, hlt, hbit, hr, hcol⟩
      · exact .inr ⟨hbit, hr, hcol⟩
    · rintro (⟨c, hc, hcover⟩ | hcover)
      · exact ⟨c, Nat.lt_succ_of_lt hc, hcover⟩
      · exact ⟨k, Nat.lt_succ_self k, hcover⟩

theorem blitByte_toggles (col0 r : Nat) (byte : Byte) (b : BlitState) :
    Toggles (ByteCovers col0 r byte 8) b (blitByte col0 r byte b) :=
  blitBits_toggles col0 r byte b 8 (Nat.le_refl _)

/-- Whether a sprite of `n` bytes from an address on covers a cell, its coordinates counted modulo the screen. -/
def BytesCover (m : Memory) (a col0 row0 n r c : Nat) : Prop :=
  SpriteCovers col0 row0 n (fun j => m.read (a + j)) (r % screenH) (c % screenW)

/-- A sprite covers what its first row covers and what the others, one row down, do. -/
theorem bytesCover_succ (m : Memory) (a col0 row0 n r' c' : Nat) : BytesCover m a col0 row0 (n + 1) r' c' ↔
    ByteCovers col0 row0 (m.read a) 8 r' c' ∨ BytesCover m (a + 1) col0 (row0 + 1) n r' c' := by
  constructor
  · rintro ⟨r, c, hr, hc, hbit, hrow, hcol⟩
    cases r with
    | zero => exact .inl ⟨c, hc, hbit, hrow, hcol⟩
    | succ r =>
      refine .inr ⟨r, c, Nat.lt_of_succ_lt_succ hr, hc, ?_, ?_, hcol⟩
      · simpa only [Nat.add_assoc, Nat.add_comm 1 r] using hbit
      · simpa only [Nat.add_assoc, Nat.add_comm 1 r] using hrow
  · rintro (⟨c, hc, hbit, hrow, hcol⟩ | ⟨r, c, hr, hc, hbit, hrow, hcol⟩)
    · exact ⟨0, c, Nat.succ_pos n, hc, hbit, hrow, hcol⟩
    · refine ⟨r + 1, c, Nat.succ_lt_succ hr, hc, ?_, ?_, hcol⟩
      · simpa only [Nat.add_assoc, Nat.add_comm 1 r] using hbit
      · simpa only [Nat.add_assoc, Nat.add_comm 1 r] using hrow

/-- A sprite of no more rows than the screen has different targets for different rows, so each covered cell is toggled
once. -/
theorem blitRows_toggles (m : Memory) (a col0 row0 n : Nat) (hn : n ≤ screenH) (b : BlitState) :
    Toggles (BytesCover m a col0 row0 n) b (blitRows col0 row0 (m.readBytes a n) b) := by
  induction n generalizing a row0 b with
  | zero => exact .nothing (fun r' c' ⟨r, c, hr, _⟩ => Nat.not_lt_zero r hr) b
  | succ n ih =>
    refine (blitByte_toggles col0 row0 (m.read a) b).trans (ih (a + 1) (row0 + 1) (by omega) _) ?_
      (bytesCover_succ m a col0 row0 n)
    rintro r' c' ⟨c, -, -, hrow, -⟩ ⟨r, c', hr, -, -, hrow', -⟩
    simp only [screenH] at hn hrow hrow'
    omega

/-- What a `DRW` that passes its check does to the grid, in the words of R282. -/
theorem drawBlit_toggles (s : State) (x y n : Nibble) :
    Toggles (BytesCover s.mem s.i.toNat ((s.getV x).toNat % screenW) ((s.getV y).toNat % screenH) n.toNat)
      { grid := s.video, hit := false } (drawBlit s x y n) :=
  blitRows_toggles s.mem s.i.toNat _ _ n.toNat (Nat.le_trans (Nat.le_of_lt n.isLt) (by decide)) _

theorem bytesCover_of_inScreen {m : Memory} {a col0 row0 n r c : Nat} (hr : r < screenH) (hc : c < screenW) :
    BytesCover m a col0 row0 n r c ↔ SpriteCovers col0 row0 n (fun j => m.read (a + j)) r c := by
  rw [BytesCover, Nat.mod_eq_of_lt hr, Nat.mod_eq_of_lt hc]

theorem SpriteCovers.inScreen {col0 row0 n r c : Nat} {row : Nat → Byte} (h : SpriteCovers col0 row0 n row r c) :
    r < screenH ∧ c < screenW := by
  obtain ⟨j, k, -, -, -, rfl, rfl⟩ := h
  exact ⟨Nat.mod_lt _ (by decide), Nat.mod_lt _ (by decide)⟩

/-- Some covered cell is true, whether cells are named by coordinates on the screen or modulo the screen. -/
theorem exists_bytesCover_iff (g : Grid) {m : Memory} {a col0 row0 n : Nat} :
    (∃ r c, BytesCover m a col0 row0 n r c ∧ g.cell r c = true) ↔
      ∃ r c, SpriteCovers col0 row0 n (fun j => m.read (a + j)) r c ∧ g.cell r c = true := by
  constructor
  · rintro ⟨r, c, hcover, hcell⟩
    exact ⟨_, _, hcover, (cell_congr g (Nat.mod_mod ..) (Nat.mod_mod ..)).trans hcell⟩
  · rintro ⟨r, c, hcover, hcell⟩
    obtain ⟨hr, hc⟩ := hcover.inScreen
    exact ⟨r, c, (bytesCover_of_inScreen hr hc).2 hcover, hcell⟩

/-! ## The instructions -/

/-- Settles O45: the clear grid is rendered and kept; no register is written. -/
theorem clearScreen : Obligations.ClearScreen := by
  refine fun s z => ⟨decodeOfEncode true (.cls 0) fun _ => rfl, decodeOfEncode false (.cls z) nofun, _, exec_cls s z,
    fun r c _ _ => cell_clear r c, rfl, rfl, advanced_of_pc rfl, ?_⟩
  exact (seq_changes (render_changes s Grid.clear)).mono (by simp)

/-- Settles O46: the blit's toggles and its hit in range, the raise out of it. -/
theorem drawSprite : Obligations.DrawSprite := by
  rintro s x y n covers rfl
  refine ⟨fun hin => ?_, fun hout => ⟨_, exec_drw_of_outside s x y n hout, raise_endsSession ..⟩⟩
  obtain ⟨hon, hoff, hhit⟩ := drawBlit_toggles s x y n
  rw [exists_bytesCover_iff] at hhit
  simp only [Bool.false_eq_true, false_or] at hhit
  have hvf (b : Bool) (hb : (drawBlit s x y n).hit = b) :
      (State.setV { s with video := (drawBlit s x y n).grid } vf (flagByte (drawBlit s x y n).hit)).getV 15 = flagByte b :=
    hb ▸ getV_setV_self ..
  refine ⟨_, exec_drw_of_inRange s x y n hin, fun r c hr hc => ⟨fun h => ?_, fun h => ?_⟩, fun h => hvf true (hhit.2 h),
    fun h => hvf false (Bool.eq_false_iff.2 (mt hhit.1 h)), fun r hr => getV_setV_ne s hr _, rfl, advanced_of_pc rfl, ?_⟩
  · exact hon r c ((bytesCover_of_inScreen hr hc).2 h)
  · exact hoff r c (mt (bytesCover_of_inScreen hr hc).1 h)
  · exact (seq_changes (drawn_changes s _ _)).mono (by simp)

/-- Settles O47: the first draw keeps memory, `I` and both coordinates, so the second covers the same cells, and what it
finds true is what was false before the first. -/
theorem drawTwiceRestores : Obligations.DrawTwiceRestores := by
  intro s x y n hx hy hin
  obtain ⟨t, ht, hcells, -, -, honly, -, -, hframe⟩ := (drawSprite s x y n _ rfl).1 hin
  have hi : t.i = s.i := hframe .i (by decide)
  have hmem : ∀ a, t.mem.read a = s.mem.read a := hframe .mem (by decide)
  obtain ⟨u, hu, hcells', hhit, hmiss, -⟩ := (drawSprite t x y n _ rfl).1 (hi.symm ▸ hin)
  simp only [hi, hmem, honly x hx, honly y hy] at hcells' hhit hmiss
  have hscreen := fun r c => @SpriteCovers.inScreen ((s.getV x).toNat % 64) ((s.getV y).toNat % 32) n.toNat r c
    fun j => s.mem.read (s.i.toNat + j)
  generalize SpriteCovers _ _ _ _ = covers at hcells hcells' hhit hmiss hscreen ⊢
  have hflip (r c : Nat) (h : covers r c) : t.video.cell r c = !s.video.cell r c :=
    (hcells r c (hscreen r c h).1 (hscreen r c h).2).1 h
  refine ⟨t, u, ht, hu, fun r c hr hc => ?_, fun h => ?_, fun ⟨r, c, hcover, hclear⟩ => ?_⟩
  · by_cases hcover : covers r c
    · rw [(hcells' r c hr hc).1 hcover, hflip r c hcover, Bool.not_not]
    · rw [(hcells' r c hr hc).2 hcover, (hcells r c hr hc).2 hcover]
  · have hfound : ∃ r c, covers r c ∧ t.video.cell r c = true := by
      by_contra hnone
      exact absurd ((hmiss hnone).symm.trans h) (by decide)
    obtain ⟨r, c, hcover, hset⟩ := hfound
    exact ⟨r, c, hcover, by rw [← Bool.not_not (s.video.cell r c), ← hflip r c hcover, hset, Bool.not_true]⟩
  · exact hhit ⟨r, c, hcover, by rw [hflip r c hcover, hclear, Bool.not_false]⟩

end Sys2Proof.Machine

/-! PROOFS. Non-interference: no execute phase reads the sound timer or the accumulator (R46, R50). -/

namespace Sys2Proof.Machine

/-- The state with another sound timer and another accumulator. -/
def retimed (s : State) (st : Byte) (acc : Nat) : State := { s with st := st, acc := acc }

section Retimed
variable (s : State) (st : Byte) (acc : Nat)

theorem writeRF_retimed (x : Nibble) (result flag : Byte) :
    (retimed s st acc).writeRF x result flag = retimed (s.writeRF x result flag) st acc := by
  cases ho : s.cfg.vfOrder <;> simp only [State.writeRF, retimed, ho] <;> rfl

theorem writeBitwise_retimed (x : Nibble) (result : Byte) :
    writeBitwise (retimed s st acc) x result = retimed (writeBitwise s x result) st acc := by
  have hcfg : (retimed s st acc).cfg = s.cfg := rfl
  simp only [writeBitwise, hcfg]
  split
  · exact writeRF_retimed ..
  · rfl

theorem loadRegs_retimed (bs : List Byte) (j : Nat) :
    (retimed s st acc).loadRegs j bs = retimed (s.loadRegs j bs) st acc := by
  induction bs generalizing s j with
  | nil => rfl
  | cons b bs ih => exact ih (s.setV (BitVec.ofNat 4 j) b) (j + 1)

variable {s} in
/-- To retime an execute phase it is enough to know its answer from both states. -/
theorem exec_retimed_of_eq {i : Instr} {t u v : State} (h : exec i s = .next t) (hu : exec i s = .next u)
    (hv : exec i (retimed s st acc) = .next v) (huv : v = retimed u st acc) :
    ∃ st', exec i (retimed s st acc) = .next (retimed t st' acc) := by
  obtain rfl := Host.Outcome.next.inj (h.symm.trans hu)
  exact ⟨st, hv.trans (congrArg _ huv)⟩

end Retimed

/-- The retimed execute phase gives the retimed state, `LD ST, Vx` with its own sound timer. -/
theorem exec_retimed {i : Instr} {s t : State} (h : exec i s = .next t) (st : Byte) (acc : Nat) :
    ∃ st', exec i (retimed s st acc) = .next (retimed t st' acc) := by
  have same {u v : State} := exec_retimed_of_eq st acc (u := u) (v := v) h
  cases i with
  | ldST x => obtain rfl := Host.Outcome.next.inj h; exact ⟨s.getV x, rfl⟩
  | or x | and x | xor x => exact same rfl rfl (congrArg State.seq (writeBitwise_retimed s st acc x _))
  | addReg x | sub x | shr x | subn x | shl x => exact same rfl rfl (congrArg State.seq (writeRF_retimed s st acc x _ _))
  | cls | jp | seImm | sneImm | seReg | sneReg | ldImm | addImm | ldReg | ldI | jpV0 | rnd | ldVxDT | ldVxK | ldDT | addI
  | ldF => exact same rfl rfl rfl
  | call nnn =>
    by_cases hf : s.sp.val = stackDepth
    · exact same (exec_call_of_full s nnn hf) (exec_call_of_full (retimed s st acc) nnn hf) rfl
    · have hlt : s.sp.val < stackDepth := Nat.lt_of_le_of_ne (Nat.le_of_lt_succ s.sp.isLt) hf
      exact same (exec_call_of_lt s nnn hlt) (exec_call_of_lt (retimed s st acc) nnn hlt) rfl
  | ret z =>
    by_cases hf : s.sp.val = 0
    · exact same (exec_ret_of_empty s z hf) (exec_ret_of_empty (retimed s st acc) z hf) rfl
    · exact same (exec_ret_of_ne s z hf) (exec_ret_of_ne (retimed s st acc) z hf) rfl
  | skp x =>
    rcases Nat.lt_or_ge 15 (s.getV x).toNat with hf | hf
    · exact same (exec_skp_of_not_key s x hf) (exec_skp_of_not_key (retimed s st acc) x hf) rfl
    · exact same (exec_skp_of_key s x hf) (exec_skp_of_key (retimed s st acc) x hf) rfl
  | sknp x =>
    rcases Nat.lt_or_ge 15 (s.getV x).toNat with hf | hf
    · exact same (exec_sknp_of_not_key s x hf) (exec_sknp_of_not_key (retimed s st acc) x hf) rfl
    · exact same (exec_sknp_of_key s x hf) (exec_sknp_of_key (retimed s st acc) x hf) rfl
  | drw x y n =>
    rcases Nat.lt_or_ge memSize (s.i.toNat + n.toNat) with hf | hf
    · exact same (exec_drw_of_outside s x y n hf) (exec_drw_of_outside (retimed s st acc) x y n hf) rfl
    · exact same (exec_drw_of_inRange s x y n hf) (exec_drw_of_inRange (retimed s st acc) x y n hf) rfl
  | ldB x =>
    rcases Nat.lt_or_ge memSize (s.i.toNat + 3) with hf | hf
    · exact same (exec_ldB_of_outside s x hf) (exec_ldB_of_outside (retimed s st acc) x hf) rfl
    · exact same (exec_ldB_of_inRange s x hf) (exec_ldB_of_inRange (retimed s st acc) x hf) rfl
  | ldMemStore x =>
    rcases Nat.lt_or_ge memSize (s.i.toNat + (x.toNat + 1)) with hf | hf
    · exact same (exec_ldMemStore_of_outside s x hf) (exec_ldMemStore_of_outside (retimed s st acc) x hf) rfl
    · exact same (exec_ldMemStore_of_inRange s x hf) (exec_ldMemStore_of_inRange (retimed s st acc) x hf) rfl
  | ldMemLoad x =>
    rcases Nat.lt_or_ge memSize (s.i.toNat + (x.toNat + 1)) with hf | hf
    · exact same (exec_ldMemLoad_of_outside s x hf) (exec_ldMemLoad_of_outside (retimed s st acc) x hf) rfl
    · exact same (exec_ldMemLoad_of_inRange s x hf) (exec_ldMemLoad_of_inRange (retimed s st acc) x hf)
        (congrArg (fun u : State => (u.setI (indexAfterBlock s x)).seq) (loadRegs_retimed s st acc _ 0))

/-- Settles O54: the other state is the retimed one. -/
theorem execIgnoresSoundTimerAndAccumulator : Obligations.ExecIgnoresSoundTimerAndAccumulator :=
  fun _ _ _ st acc h => exec_retimed h st acc

end Sys2Proof.Machine
